-- ==== Sys2Proof/Word.lean ====
section
/-! DEFINITION. The engine's bit vectors: bytes, command indices, 32-bit unsigned words (R10, R13) and the engine's
counters (R28). -/

namespace Sys2Proof

/-- `u8`: one byte on the SPI bus, of a buffer, or of a host request (R13). -/
abbrev Byte := BitVec 8

/-- A command index, 6 bits: an index of 64 or more is not representable (R75). -/
abbrev Index := BitVec 6

/-- `u32`: a command argument, a logical sector number or a wire argument (R10). -/
abbrev U32 := BitVec 32

/-- The 7-bit value of the checksum collaborator (R32). -/
abbrev Crc := BitVec 7

/-- The working register `attempt`, 0..1000 in 10 bits (R28). -/
abbrev Attempt := BitVec 10

/-- The working register `poll`, 0..10000 in 14 bits (R28). -/
abbrev Poll := BitVec 14

/-- The working register `i`, 0..513, which ten bits hold (R28; log entry 8). -/
abbrev StreamIndex := BitVec 10

end Sys2Proof
end

