-- ==== Sys2Proof/Machine/Params.lean ====
section
/-! DEFINITION. The fixed parameters of R10, under the names of that rule, one definition each (R11: named constants,
so that a corrected value is a one-place change). -/

namespace Sys2Proof.Params

/-- `SECTOR_SIZE`: bytes per sector, per data block and per buffer. -/
def sectorSize : Nat := 512
/-- `DATA_CRC_BYTES`: checksum bytes after a data block, read and discarded. -/
def dataCrcBytes : Nat := 2
/-- `FRAME_LEN`: bytes per command frame. Reducible, for it bounds the positions `FRAME.XFER`. -/
abbrev frameLen : Nat := 6
/-- `IDLE_BYTE`: the byte sent when the engine only receives (R82). -/
def idleByte : Byte := 0xFF
/-- `DATA_TOKEN`: the start-of-data token (R81). -/
def dataToken : Byte := 0xFE
/-- `VENDOR_BYTE`: the spurious byte before the real token (R80). -/
def vendorByte : Byte := 0x1F
/-- `R1_POLL_BUDGET` (R134). -/
def r1PollBudget : Nat := 100
/-- `TOKEN_POLL_BUDGET` (R198). -/
def tokenPollBudget : Nat := 10000
/-- `PRIME_BYTES`: idle bytes clocked in PowerCycle (R154). Reducible, for it bounds the positions `PRIME_XFER`. -/
abbrev primeBytes : Nat := 10
/-- `GOIDLE_BUDGET` (R155). -/
def goIdleBudget : Nat := 100
/-- `IFCOND_BUDGET` (R158). -/
def ifCondBudget : Nat := 100
/-- `NEGOTIATE_BUDGET` (R161). -/
def negotiateBudget : Nat := 1000
/-- `PROBE_BUDGET`: ProbeMode's trial read is made once and not retried (R165, R167). Read by `probeFailed`. -/
def probeBudget : Nat := 1
/-- `T_RETRY_US`: 10 ms between CheckInterface and between NegotiateCapacity attempts (R160). -/
def tRetryUs : Nat := 10000
/-- `GOIDLE_DELAY_US`: no delay between GoIdle attempts (R155, R157). -/
def goIdleDelayUs : Option Nat := none
/-- The index of GO_IDLE_STATE (R107). -/
def goIdleIndex : Index := 0
/-- The index of SEND_IF_COND (R108). -/
def ifCondIndex : Index := 8
/-- The index of READ_SECTOR (R109). -/
def readIndex : Index := 17
/-- The index of the application-command marker (R110). -/
def appIndex : Index := 55
/-- The index of the capacity-negotiation command (R111). -/
def acmdIndex : Index := 41
/-- The argument of CMD0 and of CMD55 (R78). -/
def zeroArg : U32 := 0
/-- `IFCOND_ARG` (R78). -/
def ifCondArg : U32 := 0x000001AA
/-- `HCS_BIT`: the bit of the ACMD41 argument the host sets (R78). -/
def hcsBit : Nat := 30
/-- `ACMD41_ARG`: bit 30 set, all other bits zero (R78, D7). -/
def acmd41Arg : U32 := 1 <<< hcsBit
/-- `CMD0_CRC`, the literal checksum byte of index 0 (R103). -/
def cmd0Crc : Byte := 0x95
/-- `CMD8_CRC`, the literal checksum byte of index 8 (R104). -/
def cmd8Crc : Byte := 0x87
/-- `PROBE_SECTOR`: the logical sector ProbeMode reads (R165). -/
def probeSector : U32 := 1
/-- The R1 value that is success for CMD0 and CMD8 (R79). -/
def r1Idle : Byte := 0x01
/-- The R1 value that is success for ACMD41 and CMD17 (R79). -/
def r1Ready : Byte := 0x00
/-- The op code of an INIT request (R84). -/
def opInit : Byte := 0x01
/-- The op code of a READ_SECTOR request (R84). -/
def opReadSector : Byte := 0x02

end Sys2Proof.Params
end

