-- ==== Sys2Proof/Syntax.lean ====
section
/-! DEFINITION. The rows of spec/opcode_table.json as one inductive type, and the streams they are read from (R88). -/

namespace Sys2Proof

/-- Where a row's bits are read from: the engine's own command frames, the host port, a byte received at a Response
Reader poll, a byte received at a token poll (R70, R88). -/
inductive Stream where
  | frame
  | host
  | r1
  | data
deriving DecidableEq, Repr

/-- A row of the opcode table: six frame forms, two host requests, five received-byte classes (R88). -/
inductive Instr where
  /-- GO_IDLE_STATE (R107). -/
  | cmd0
  /-- SEND_IF_COND (R108). -/
  | cmd8
  /-- READ_SECTOR command frame with its wire argument (R109). -/
  | cmd17 (warg : U32)
  /-- Application-command marker (R110). -/
  | cmd55
  /-- Capacity negotiation, sent after CMD55 (R111). -/
  | acmd41
  /-- The framer's generic form: any index, any argument (R112). -/
  | cmdN (n : Index) (arg : U32)
  /-- Host request INIT (R150). -/
  | init
  /-- Host request READ_SECTOR: sector number and the handle of the caller's buffer (R190). -/
  | readSector (sector : U32) (buf : U32)
  /-- A byte with bit 7 set at a Response Reader poll; `b` is its bits 6..0 (R132). -/
  | rxR1NotArrived (b : BitVec 7)
  /-- The vendor byte 0x1F at a Response Reader poll (R133). -/
  | rxR1Vendor
  /-- A status token at a Response Reader poll; `f` is its flag bits 6..0 (R132). -/
  | rxR1Token (f : BitVec 7)
  /-- The data token 0xFE at a token poll (R198). -/
  | rxDataToken
  /-- Any other byte at a token poll (R198). -/
  | rxDataBusy (b : Byte)
deriving DecidableEq, Repr

/-- The stream a row is read from. -/
def Instr.stream : Instr → Stream
  | .cmd0 | .cmd8 | .cmd17 _ | .cmd55 | .acmd41 | .cmdN _ _ => .frame
  | .init | .readSector _ _ => .host
  | .rxR1NotArrived _ | .rxR1Vendor | .rxR1Token _ => .r1
  | .rxDataToken | .rxDataBusy _ => .data

end Sys2Proof
end

