-- ==== Sys2Proof/Machine/Flags.lean ====
section
/-! DEFINITION. The only status bits the engine interprets: those of a received byte. There is no flag register
(R39). -/

namespace Sys2Proof

/-- A byte has arrived as a status token when its bit 7 is 0 (R132). -/
def r1Arrived (b : Byte) : Bool := !b.getLsbD 7

/-- Bit 0 of a token: the card is in idle state (R17, R39). -/
def r1IdleBit (b : Byte) : Bool := b.getLsbD 0

/-- The class of a byte received at a Response Reader poll (R79): the vendor byte is looked for before the token. -/
def classifyR1 (b : Byte) : Instr :=
  if r1Arrived b then
    if b = Params.vendorByte then .rxR1Vendor else .rxR1Token (b.setWidth 7)
  else .rxR1NotArrived (b.setWidth 7)

/-- The class of a byte received at a token poll (R81). -/
def classifyData (b : Byte) : Instr :=
  if b = Params.dataToken then .rxDataToken else .rxDataBusy b

/-- The received byte a "not arrived" row stands for: bit 7 set above the row's seven bits (R79). -/
def notArrivedByte (b : BitVec 7) : Byte := 1#1 ++ b

/-- The received byte a token row stands for: bit 7 clear above the row's seven flag bits (R79). -/
def tokenByte (f : BitVec 7) : Byte := 0#1 ++ f

end Sys2Proof
end

