-- ==== Sys2Proof/Config.lean ====
section
/-! DEFINITION. The OPEN parameters of R10 and the free values: constants with no body, so that no proof can see
what they are. -/

namespace Sys2Proof

/-- The checksum collaborator: a total pure function of the byte string to 7 bits, OPEN (R32, D16; log entry 1). -/
opaque Config.crc7 : List Byte → Crc

/-- `T_PWR_OFF_US`, the settle delay after card power is de-asserted, OPEN (R10, R153; log entry 2). -/
opaque Config.tPwrOffUs : Nat

/-- `T_PWR_ON_US`, the settle delay after card power is re-asserted, OPEN (R10, R153; log entry 2). -/
opaque Config.tPwrOnUs : Nat

/-- `PWR_RESET`, the card-power level at engine reset, OPEN (R10, R25, R43; log entry 3). -/
opaque Config.pwrReset : Bool

/-- The byte the card returns at the n-th exchange when the state's own script of card bytes is used up: a draw of
the unconstrained environment, any value 0x00 to 0xFF (R35, I4; log entry 4). -/
opaque Config.cardByte : Nat → Byte

end Sys2Proof
end

