-- ==== Sys2Proof/Machine/State.lean ====
section
/-! DEFINITION. The state of the engine (R20 to R43), the reasons a step can stop, and the state after reset. -/

namespace Sys2Proof.Machine

/-- A chip-select level: LOW selects the card (R24). -/
inductive Level where
  | low
  | high
deriving DecidableEq, Repr

/-- The addressing mode register's values (R21). The value 3 of its numeric form is not a value of this type (I14). -/
inductive Mode where
  | none
  | sdsc
  | sdhc
deriving DecidableEq, Repr

/-- The top-level control state (R26). -/
inductive Top where
  | idle
  | initBusy
  | readBusy
  | fault
deriving DecidableEq, Repr

/-- Who asked for a block read: ProbeMode's trial read, or a READ_SECTOR request of the host (R167, R190). -/
inductive Owner where
  | probe
  | host
deriving DecidableEq, Repr

/-- The places of the pseudocode that call FRAME and then READ_R1 (R138). -/
inductive Site where
  /-- GO_IDLE (R155). -/
  | goIdle
  /-- CHECK_INTERFACE (R158). -/
  | ifCond
  /-- NEGOTIATE_CAPACITY, the CMD55 exchange (R161). -/
  | app55
  /-- NEGOTIATE_CAPACITY, the ACMD41 exchange (R161). -/
  | acmd41
  /-- BLOCK_READ's command phase (R195). -/
  | block (o : Owner)
deriving DecidableEq, Repr

/-- The positions of POWER_CYCLE (R27, R153, R154); `primeXfer k` is the spec's `PRIME_XFER(k+1)`. -/
inductive PowerPos where
  | pwrOff
  | waitOff
  | pwrOn
  | waitOn
  | primeCsLow
  | primeXfer (k : Fin Params.primeBytes)
  | primeCsHigh
deriving DecidableEq, Repr

/-- The positions of FRAME (R27, R100). -/
inductive FramePos where
  | csLow
  | xfer (i : Fin Params.frameLen)
  | csHigh
deriving DecidableEq, Repr

/-- The positions of READ_R1 (R27, R130); the poll's number is the working register `poll`. -/
inductive R1Pos where
  | pollCsLow
  | pollXfer
  | pollCsHigh
  | extraCsLow
  | extraXfer
  | extraCsHigh
deriving DecidableEq, Repr

/-- The positions of BLOCK_READ outside FRAME and READ_R1 (R27, R190); `p` is the register `poll`, the indexes of DATA
and CRC are the register `i`, and `dataCsHigh` carries the pseudocode's local `found`. -/
inductive BlockPos where
  | check
  | zero
  | arg
  | dataCsLow
  | tokenPoll
  | data
  | crc
  | dataCsHigh (found : Bool)
deriving DecidableEq, Repr

/-- The bring-up states that wait between attempts (R160). -/
inductive RetryWait where
  | ifCond
  | negotiate
deriving DecidableEq, Repr

/-- The control state: `Ctl.top` with the position inside a busy request (R26, R27). -/
inductive Ctl where
  /-- No request in progress. -/
  | idle
  /-- `POWER_CYCLE.*`. -/
  | power (p : PowerPos)
  /-- `*.FRAME.*`, called from the site. -/
  | frame (c : Site) (p : FramePos)
  /-- `*.R1.*`, called from the site. -/
  | r1 (c : Site) (p : R1Pos)
  /-- `CHECK_INTERFACE.DELAY` and `NEGOTIATE_CAPACITY.DELAY`. -/
  | delay (d : RetryWait)
  /-- `PROBE_MODE.SET_MODE`. -/
  | setMode
  /-- `READ_SECTOR.*`, or `PROBE_MODE.READ` with the same positions. -/
  | block (o : Owner) (p : BlockPos)
  /-- A model fault was raised; never left (R240). -/
  | fault
deriving DecidableEq, Repr

/-- The buffer of a block read: a caller's 512-byte buffer by its handle, or the engine's scratch buffer (R28, R50). -/
inductive Buf where
  | caller (handle : U32)
  | scratch
deriving DecidableEq, Repr

/-- The six bytes of a frame in wire order, `frame[0]` to `frame[5]` (R28). -/
structure Frame where
  b0 : Byte
  b1 : Byte
  b2 : Byte
  b3 : Byte
  b4 : Byte
  b5 : Byte
deriving DecidableEq, Repr

/-- The working registers (R28). Each is `none` outside the request that wrote it: the spec gives them no value there
and makes reading one a model fault (R28, R43, D29, I10), so `none` is the spec's own state. The widths are R28's; for
`i` it gives the range 0..513, which ten bits hold (log entry 8). -/
structure Work where
  attempt : Option Attempt
  poll    : Option Poll
  tok     : Option Byte
  frame   : Option Frame
  idx     : Option Index
  arg     : Option U32
  sector  : Option U32
  buf     : Option Buf
  i       : Option StreamIndex
deriving DecidableEq, Repr

/-- No working register holds a value (R28, R43). -/
def Work.empty : Work :=
  { attempt := none, poll := none, tok := none, frame := none, idx := none, arg := none, sector := none, buf := none,
    i := none }

/-- The names of the working registers, for the model fault that a read of an unwritten one is (R28). -/
inductive WorkReg where
  | attempt
  | poll
  | tok
  | frame
  | idx
  | arg
  | sector
  | buf
  | i
deriving DecidableEq, Repr

/-- One event of the bus trace (R15, R36). -/
inductive Event where
  | cs (level : Level)
  | xfer (out inp : Byte)
  | power (on : Bool)
  | delay (us : Nat)
deriving DecidableEq, Repr

/-- The errors of INIT (R232). -/
inductive InitError where
  | goIdleFailed
  | unsupportedCard
  | negotiationFailed
  | probeFailed
deriving DecidableEq, Repr

/-- The errors of READ_SECTOR (R233). -/
inductive ReadError where
  | cardRejected (token : Byte)
  | timeout
deriving DecidableEq, Repr

/-- A result on the completion port (R38, R85). -/
inductive HostResult where
  | ok
  | initErr (e : InitError)
  | readErr (e : ReadError)
deriving DecidableEq, Repr

/-- The names a model fault is raised with: the two of R240, and the model's own name for the model fault that R28, D29
and I10 call the read of an unwritten working register and give no name (log entry 26). -/
inductive FaultName where
  | notReady
  | sdscArgOverflow
  | unwrittenRegister (r : WorkReg)
deriving DecidableEq, Repr

/-- The whole state: R20's tuple, the caller's buffers (host memory, R50), the two host ports (R37, R38), and the
environment the exchanges draw from (R35). -/
structure State where
  /-- `Mode` (R21). -/
  mode : Mode
  /-- `CS`, the chip-select output (R24). -/
  cs : Level
  /-- `PWR`, the card power output (R25). -/
  pwr : Bool
  /-- `Ctl` (R26, R27). -/
  ctl : Ctl
  /-- `W` (R28). -/
  w : Work
  /-- `Scratch`: cells at offsets 0 to 511 (R29). -/
  scratch : List Host.Cell
  /-- `Trace`, oldest event first (R36). -/
  trace : List Event
  /-- `Fault`, the model fault mark (R240). -/
  fault : Option FaultName
  /-- The callers' sector buffers: byte `k` of the buffer with handle `h` is the cell at `512 * h + k` (R50, R64). -/
  mem : List Host.Cell
  /-- The host request port: the bytes of the requests the host has yet to present, oldest first (R37, R84). -/
  port : List Byte
  /-- The host completion port: the results delivered, oldest first (R38). -/
  completions : List HostResult
  /-- The model's own: the bytes the card will return at the next exchanges (R35; log entry 4). -/
  card : List Byte
  /-- The model's own: how many exchanges have drawn a byte (R35; log entry 4). -/
  draws : Nat
deriving DecidableEq, Repr

/-- Why the machine stops with a fault. -/
inductive Fault where
  /-- Raised by every step and every instruction in the FAULT state: no step is enabled from it, and the mark says which
  model fault was raised (R240). Safe: the spec gives the state no continuation. -/
  | halted (mark : Option FaultName)
  /-- Raised by a buffer write that reaches past offset 511: the address does not exist (R50, R64). Safe: the spec has
  no such write. -/
  | outsideBuffer
deriving DecidableEq, Repr

/-- Why the machine gives no meaning. -/
inductive Refusal where
  /-- Raised by an arm of `exec` whose instruction has no meaning yet. Safe: nothing is claimed of it. -/
  | notModelled (mnemonic : String)
  /-- Raised by INIT and READ_SECTOR while the engine is not idle: the host has no such move (R37, D14, I8). Safe. -/
  | portBusy
  /-- Raised by a step that finds an op code other than 0x01 and 0x02 at the request port: not accepted, no state change
  (R84, I9). Safe. -/
  | unknownOpcode (op : Byte)
  /-- Raised by a step that finds a request without all its operands at the request port (R84). Safe. -/
  | truncatedRequest
  /-- Raised by a received-byte class where no poll of its kind is about to be made: no byte is received there (R79, R81).
  Safe. -/
  | noPoll
deriving DecidableEq, Repr

/-- The state right after engine reset (R43, R260): Mode NONE, CS HIGH, PWR the OPEN parameter, IDLE, no working register
with a value, no fault, an empty trace. `scratch` and `mem` list no byte, and nothing stands at the ports. -/
def State.reset : State :=
  { mode := .none, cs := .high, pwr := Config.pwrReset, ctl := .idle, w := Work.empty, scratch := [], trace := [],
    fault := none, mem := [], port := [], completions := [], card := [], draws := 0 }

end Sys2Proof.Machine
end

