-- ==== Sys2Proof/Machine/Mem.lean ====
section
/-! DEFINITION. Memory as a list of cells in one canonical form: addresses strictly rising. An address that is not
listed holds no value, so no entry ever equals what an unlisted address reads as (log entry 9). -/

namespace Sys2Proof.Machine

/-- The byte at an address, if something has written it. -/
def Mem.read : List Host.Cell → Nat → Option Byte
  | [], _ => none
  | c :: m, a => if c.1 = a then some c.2 else Mem.read m a

/-- One byte written, the form kept: a cell before the first greater address, or in place of the address's own. -/
def Mem.write : List Host.Cell → Nat → Byte → List Host.Cell
  | [], a, b => [(a, b)]
  | c :: m, a, b =>
    if a < c.1 then (a, b) :: c :: m
    else if a = c.1 then (a, b) :: m
    else c :: Mem.write m a b

/-- `n` bytes of one value from an address on (`MemWrite`, R15). -/
def Mem.fill (m : List Host.Cell) (a : Nat) : Nat → Byte → List Host.Cell
  | 0, _ => m
  | n + 1, v => Mem.write (Mem.fill m a n v) (a + n) v

/-- The canonical form: each address below every later one. -/
def Mem.wf : List Host.Cell → Bool
  | [] => true
  | [_] => true
  | c :: d :: m => decide (c.1 < d.1) && Mem.wf (d :: m)

/-- The address of byte `off` of the caller's buffer with handle `h` (R50, R64; log entry 6). -/
def callerAddr (h : U32) (off : Nat) : Nat := Params.sectorSize * h.toNat + off

/-- Byte `off` of a buffer, for what a host sees at completion (R65). -/
def bufRead (b : Buf) (off : Nat) (s : State) : Option Byte :=
  match b with
  | .caller h => Mem.read s.mem (callerAddr h off)
  | .scratch => Mem.read s.scratch off

end Sys2Proof.Machine
end

