-- ==== Sys2Proof/Machine/Operands.lean ====
section
/-! DEFINITION. Operand forms that need no state: byte order, the fields of a command frame and its checksum byte
(R14, R71 to R74, R100 to R105). -/

namespace Sys2Proof

/-- `BE32`: the four bytes of a `u32`, most significant first (R14, R51). -/
def be32 (a : U32) : List Byte :=
  [a.extractLsb' 24 8, a.extractLsb' 16 8, a.extractLsb' 8 8, a.extractLsb' 0 8]

/-- The `u32` whose big-endian bytes are the four given (R51). -/
def ofBe32 (b3 b2 b1 b0 : Byte) : U32 := b3 ++ b2 ++ b1 ++ b0

/-- The start byte `0x40 | index` (R72, R101). -/
def startByte (index : Index) : Byte := 0x40#8 ||| index.setWidth 8

/-- Bytes 0 to 4 of a frame: start byte and big-endian argument (R71, R102). -/
def frameHead (index : Index) (arg : U32) : List Byte := startByte index :: be32 arg

/-- The stop-bit form of a computed checksum, `(crc << 1) | 1` (R105). -/
def stopForm (c : Crc) : Byte := (c.setWidth 8 <<< 1) ||| 1#8

/-- `CHECKSUM(index, f[0..4])`: the literals of index 0 and 8, else computed from `crc7` (R103, R104, R105). -/
def checksum (index : Index) (head : List Byte) : Byte :=
  if index = Params.goIdleIndex then Params.cmd0Crc
  else if index = Params.ifCondIndex then Params.cmd8Crc
  else stopForm (Config.crc7 head)

/-- The six bytes of a command frame in wire order (R71, R100). -/
def frameBytes (index : Index) (arg : U32) : List Byte :=
  frameHead index arg ++ [checksum index (frameHead index arg)]

/-- The row of the opcode table a frame's index and argument belong to (R76, R107 to R112). -/
def frameRow (index : Index) (arg : U32) : Instr :=
  if index = Params.readIndex then .cmd17 arg
  else if index = Params.goIdleIndex ∧ arg = Params.zeroArg then .cmd0
  else if index = Params.ifCondIndex ∧ arg = Params.ifCondArg then .cmd8
  else if index = Params.appIndex ∧ arg = Params.zeroArg then .cmd55
  else if index = Params.acmdIndex ∧ arg = Params.acmd41Arg then .acmd41
  else .cmdN index arg

end Sys2Proof
end

