-- ==== Sys2Proof/Machine/Ops.lean ====
section
/-! DEFINITION. The named operations over the state: the primitives of R15, the working registers, raising a model
fault, delivering a result, engine reset, and the two procedures FRAME and one READ_R1 poll that the frame and
received-byte instructions share. -/

namespace Sys2Proof.Machine

/-- What a meaning answers. -/
abbrev Out := Host.Outcome State Fault Refusal

/-- `Ctl.top` (R26). -/
def Ctl.top : Ctl → Top
  | .idle => .idle
  | .power _ => .initBusy
  | .frame (.block .host) _ => .readBusy
  | .frame _ _ => .initBusy
  | .r1 (.block .host) _ => .readBusy
  | .r1 _ _ => .initBusy
  | .delay _ => .initBusy
  | .setMode => .initBusy
  | .block .host _ => .readBusy
  | .block .probe _ => .initBusy
  | .fault => .fault

/-- The numeric form of Mode (R21). -/
def Mode.code : Mode → BitVec 2
  | .none => 0
  | .sdsc => 1
  | .sdhc => 2

/-- The numeric form of a result (R85). -/
def HostResult.code : HostResult → Byte
  | .ok => 0x00
  | .initErr .goIdleFailed => 0x01
  | .initErr .unsupportedCard => 0x02
  | .initErr .negotiationFailed => 0x03
  | .initErr .probeFailed => 0x04
  | .readErr (.cardRejected _) => 0x10
  | .readErr .timeout => 0x11

/-- The payload of a result: the token of CardRejected, of no other (R85, R232, R233). -/
def HostResult.payload : HostResult → Option Byte
  | .readErr (.cardRejected token) => some token
  | _ => none

/-! ### The primitives of R15 -/

/-- One event at the end of the bus trace (R36). -/
def emit (e : Event) (s : State) : State := { s with trace := s.trace ++ [e] }

/-- `SetCS(level)`: drives chip-select (R31). -/
def setCs (l : Level) (s : State) : State := emit (.cs l) { s with cs := l }

/-- The byte the next exchange will receive: the environment's, unconstrained (R35). -/
def nextByte (s : State) : Byte :=
  match s.card with
  | b :: _ => b
  | [] => Config.cardByte s.draws

/-- One exchange that sends `out` and receives `inp` (R30): the event, and one byte of the card's output consumed (R56). -/
def receive (out inp : Byte) (s : State) : State :=
  emit (.xfer out inp) { s with card := s.card.tail, draws := s.draws + 1 }

/-- `Xfer(out)`: an exchange whose received byte is the environment's draw (R15). -/
def xfer (out : Byte) (s : State) : State := receive out (nextByte s) s

/-- `SetPower(on)`: drives the card power rail (R34). -/
def setPower (on : Bool) (s : State) : State := emit (.power on) { s with pwr := on }

/-- `Delay(us)`: a busy-wait, whose only effect is its event (R33). -/
def delayUs (us : Nat) (s : State) : State := emit (.delay us) s

/-- `MemWrite(buf, off, n, v)`: no event; a write past the buffer's 512 bytes has no address (R15, R50, R64). -/
def memWrite (b : Buf) (off n : Nat) (v : Byte) (s : State) : Out :=
  if off + n ≤ Params.sectorSize then
    match b with
    | .caller h => .next { s with mem := Mem.fill s.mem (callerAddr h off) n v }
    | .scratch => .next { s with scratch := Mem.fill s.scratch off n v }
  else .fault .outsideBuffer

/-- `raise Fault(name)`: the engine enters FAULT and records the name (R15, R240). That ends the request (R230), so no
working register holds a value any more (R28). This is the engine's one way of taking a fault; nothing returns from it
but engine reset (R236, R260). -/
def raiseFault (n : FaultName) (s : State) : State := { s with ctl := .fault, fault := some n, w := Work.empty }

/-- The end of a request: one result on the completion port, IDLE, and no working register with a value (R28, R38). -/
def finish (r : HostResult) (s : State) : State :=
  { s with ctl := .idle, w := Work.empty, completions := s.completions ++ [r] }

/-- Engine reset from any state: every piece of the engine at its reset value, `Fault` clear (R43, R260). The host's
memory and the card are not the engine's and stay (log entry 10). -/
def engineReset (s : State) : State :=
  { State.reset with mem := s.mem, card := s.card, draws := s.draws }

/-! ### Working registers -/

/-- A working register read in the state `s`. Where it holds no value the read is a model fault, never a value (R28, D29,
I10), and the engine enters FAULT as for every model fault (R230, R240; log entry 26). -/
def needReg {α : Type} (v : Option α) (r : WorkReg) (s : State) (k : α → Out) : Out :=
  match v with
  | some x => k x
  | none => .next (raiseFault (.unwrittenRegister r) s)

/-- The guard of every meaning: from FAULT no step is enabled and no request is accepted (R240). -/
def unlessFaulted (s : State) (k : Out) : Out :=
  match s.ctl with
  | .fault => .fault (.halted s.fault)
  | _ => k

/-! ### FRAME and READ_R1 -/

/-- The frame register's six bytes (R100). -/
def Frame.build (index : Index) (arg : U32) : Frame :=
  let h := frameHead index arg
  { b0 := startByte index, b1 := arg.extractLsb' 24 8, b2 := arg.extractLsb' 16 8, b3 := arg.extractLsb' 8 8,
    b4 := arg.extractLsb' 0 8, b5 := checksum index h }

/-- `frame[i]` (R28). -/
def Frame.byte (f : Frame) : Fin Params.frameLen → Byte
  | 0 => f.b0
  | 1 => f.b1
  | 2 => f.b2
  | 3 => f.b3
  | 4 => f.b4
  | 5 => f.b5

/-- FRAME's first three lines: the frame register is written (R100). -/
def buildFrame (index : Index) (arg : U32) (s : State) : State :=
  { s with w := { s.w with frame := some (Frame.build index arg) } }

/-- Six exchanges of the frame's bytes, the received bytes discarded (R100, R106). -/
def sendFrame (f : Frame) (s : State) : State :=
  xfer f.b5 (xfer f.b4 (xfer f.b3 (xfer f.b2 (xfer f.b1 (xfer f.b0 s)))))

/-- READ_R1 begins: its first poll (R130, R138). -/
def enterReadR1 (c : Site) (s : State) : State :=
  { s with w := { s.w with poll := some 1 }, ctl := .r1 c .pollCsLow }

/-- FRAME returns to its caller, which calls READ_R1 next (R138). The framer used alone, at no FRAME position, leaves the
control state as it is; on an idle engine its return ends the use, and `frame` holds no value after it (R28, R112; log
entry 11). -/
def frameReturn (s : State) : State :=
  match s.ctl with
  | .frame c .csLow => enterReadR1 c s
  | .idle => { s with w := { s.w with frame := none } }
  | _ => s

/-- The whole of `FRAME(index, arg)`: the frame built, one chip-select bracket around six exchanges, eight events
(R100, R106). -/
def frameProc (index : Index) (arg : U32) (s : State) : State :=
  frameReturn (setCs .high (sendFrame (Frame.build index arg) (setCs .low (buildFrame index arg s))))

/-- One bracketed exchange of READ_R1 that receives `b`: three events, and `tok <- b` (R130, R131). -/
def r1Exchange (b : Byte) (s : State) : State :=
  let t := setCs .high (receive Params.idleByte b (setCs .low s))
  { t with w := { t.w with tok := some b } }

end Sys2Proof.Machine
end

