-- ==== Sys2Proof/Machine/Command.lean ====
section
/-! DEFINITION. The command frames: each transmits its frame by the framer procedure of R100. -/

namespace Sys2Proof.Machine

/-- GO_IDLE_STATE (R107): `FRAME(0, 0x00000000)`. -/
def execCmd0 (s : State) : Out :=
  unlessFaulted s (.next (frameProc Params.goIdleIndex Params.zeroArg s))

/-- SEND_IF_COND (R108): `FRAME(8, 0x000001AA)`. -/
def execCmd8 (s : State) : Out :=
  unlessFaulted s (.next (frameProc Params.ifCondIndex Params.ifCondArg s))

/-- READ_SECTOR's frame (R109): `FRAME(17, warg)`. -/
def execCmd17 (warg : U32) (s : State) : Out :=
  unlessFaulted s (.next (frameProc Params.readIndex warg s))

/-- The application-command marker (R110): `FRAME(55, 0x00000000)`. -/
def execCmd55 (s : State) : Out :=
  unlessFaulted s (.next (frameProc Params.appIndex Params.zeroArg s))

/-- ACMD41 (R111): `FRAME(41, 0x40000000)`. The framer does not know of the marker before it; that is the caller's. -/
def execAcmd41 (s : State) : Out :=
  unlessFaulted s (.next (frameProc Params.acmdIndex Params.acmd41Arg s))

/-- The generic command (R112): `FRAME(n, arg)` for any index and argument. -/
def execCmdN (n : Index) (arg : U32) (s : State) : Out :=
  unlessFaulted s (.next (frameProc n arg s))

end Sys2Proof.Machine
end

