-- ==== Sys2Proof/Machine/Sequencer.lean ====
section
/-! DEFINITION. The control flow between the primitives: what happens when READ_R1 or BLOCK_READ returns to its caller,
and the entries of the bring-up states (R150 to R177, R190 to R204). None of these records an event. -/

namespace Sys2Proof.Machine

/-- A call of FRAME: index and argument written, control at its first position (R28, R100). -/
def callFrame (c : Site) (index : Index) (arg : U32) (s : State) : State :=
  { s with w := { s.w with idx := some index, arg := some arg }, ctl := .frame c .csLow }

/-- The attempt counter written (R28). -/
def setAttempt (n : Attempt) (s : State) : State := { s with w := { s.w with attempt := some n } }

/-- GO_IDLE's attempt `n` (R155). -/
def tryGoIdle (n : Attempt) (s : State) : State := callFrame .goIdle Params.goIdleIndex Params.zeroArg (setAttempt n s)

/-- CHECK_INTERFACE's attempt `n` (R158). -/
def tryIfCond (n : Attempt) (s : State) : State := callFrame .ifCond Params.ifCondIndex Params.ifCondArg (setAttempt n s)

/-- NEGOTIATE_CAPACITY's attempt `n`, its CMD55 exchange (R161). -/
def tryNegotiate (n : Attempt) (s : State) : State := callFrame .app55 Params.appIndex Params.zeroArg (setAttempt n s)

/-- The delay between two attempts of GO_IDLE, of which the parameter says that there is none (R10, R155, R157). -/
def pause (d : Option Nat) (s : State) : State :=
  match d with
  | some us => delayUs us s
  | none => s

/-- ProbeMode's attempt `n` has failed: Mode NONE and ProbeFailed when the budget is used up (R168). The budget is one
attempt (R10, R165), so the first failure is the last. -/
def probeFailed (n : Nat) (s : State) : State :=
  if n < Params.probeBudget then { s with ctl := .setMode } else finish (.initErr .probeFailed) { s with mode := .none }

/-- BLOCK_READ's result to its caller: the host gets it; ProbeMode turns an error into Mode NONE and ProbeFailed, and
does not surface it (R165, R168, R190, R237). `none` is Ok. -/
def blockReturn (o : Owner) (e : Option ReadError) (s : State) : State :=
  match o, e with
  | .host, none => finish .ok s
  | .host, some err => finish (.readErr err) s
  | .probe, none => finish .ok s
  | .probe, some _ => probeFailed 1 s

/-- READ_R1 returns the byte `r` to the site that called it (R138). -/
def r1Return (c : Site) (r : Byte) (s : State) : Out :=
  match c with
  | .goIdle =>
    if r = Params.r1Idle then .next (tryIfCond 1 s)
    else needReg s.w.attempt .attempt s fun n =>
      if n.toNat < Params.goIdleBudget then .next (tryGoIdle (n + 1) (pause Params.goIdleDelayUs s))
      else .next (finish (.initErr .goIdleFailed) s)
  | .ifCond =>
    if r = Params.r1Idle then .next (tryNegotiate 1 s)
    else needReg s.w.attempt .attempt s fun n =>
      if n.toNat < Params.ifCondBudget then .next { s with ctl := .delay .ifCond }
      else .next (finish (.initErr .unsupportedCard) s)
  | .app55 => .next (callFrame .acmd41 Params.acmdIndex Params.acmd41Arg s)
  | .acmd41 =>
    if r = Params.r1Ready then .next { s with ctl := .setMode }
    else needReg s.w.attempt .attempt s fun n =>
      if n.toNat < Params.negotiateBudget then .next { s with ctl := .delay .negotiate }
      else .next (finish (.initErr .negotiationFailed) s)
  | .block o =>
    if r = Params.r1Ready then .next { s with ctl := .block o .dataCsLow }
    else .next (blockReturn o (some (.cardRejected r)) s)

/-- After a poll whose byte `b` has bit 7 set: poll again, or at the budget return that byte (R134). -/
def pollMissed (c : Site) (b : Byte) (s : State) : Out :=
  needReg s.w.poll .poll s fun k =>
    if k.toNat < Params.r1PollBudget then
      .next { s with w := { s.w with poll := some (k + 1) }, ctl := .r1 c .pollCsLow }
    else r1Return c b s

/-- After a token poll that was not answered by 0xFE: poll again, or at the budget leave the data phase (R198, R199). -/
def tokenMissed (o : Owner) (s : State) : Out :=
  needReg s.w.poll .poll s fun p =>
    if p.toNat < Params.tokenPollBudget then
      .next { s with w := { s.w with poll := some (p + 1) }, ctl := .block o .tokenPoll }
    else .next { s with ctl := .block o (.dataCsHigh false) }

/-- After the data token: the data stream starts at offset 0 (R198, R200). -/
def tokenFound (o : Owner) (s : State) : State :=
  { s with w := { s.w with i := some 0 }, ctl := .block o .data }

/-- `WIRE_ARG(mode, s)`: the identity for SDHC, times 512 for SDSC, and no value where the product leaves 32 bits
(R193, R194). Mode NONE has none either: the check before it has raised NOT_READY (R191). -/
def wireArg (m : Mode) (sector : U32) : Except FaultName U32 :=
  match m with
  | .sdhc => .ok sector
  | .sdsc => if sector.toNat < 2 ^ 23 then .ok (sector <<< 9) else .error .sdscArgOverflow
  | .none => .error .notReady

end Sys2Proof.Machine
end

