-- ==== Sys2Proof/Machine/Received.lean ====
section
/-! DEFINITION. The received-byte classes: one poll of the Response Reader, or one token poll, that receives the byte
(R79, R81). -/

namespace Sys2Proof.Machine

/-- A Response Reader poll is about to be made, for the site given (R27, R131). -/
def atR1Poll (s : State) (k : Site → Out) : Out :=
  match s.ctl with
  | .r1 c .pollCsLow => k c
  | .fault => .fault (.halted s.fault)
  | _ => .refused .noPoll

/-- A token poll is about to be made, for the owner given (R27, R198). -/
def atTokenPoll (s : State) (k : Owner → Out) : Out :=
  match s.ctl with
  | .block o .tokenPoll => k o
  | .fault => .fault (.halted s.fault)
  | _ => .refused .noPoll

/-- A poll answered by a byte with bit 7 set (R132, R134): poll again, or at the budget return the byte. -/
def execRxR1NotArrived (b : BitVec 7) (s : State) : Out :=
  atR1Poll s fun c => pollMissed c (notArrivedByte b) (r1Exchange (notArrivedByte b) s)

/-- A poll answered by 0x1F (R133): one extra bracketed exchange, whose byte is the token, unchecked. -/
def execRxR1Vendor (s : State) : Out :=
  atR1Poll s fun c =>
    let t := r1Exchange Params.vendorByte s
    r1Return c (nextByte t) (r1Exchange (nextByte t) t)

/-- A poll answered by a status token (R132): READ_R1 returns it. -/
def execRxR1Token (f : BitVec 7) (s : State) : Out :=
  atR1Poll s fun c => r1Return c (tokenByte f) (r1Exchange (tokenByte f) s)

/-- A token poll answered by 0xFE (R198): the data stream starts. -/
def execRxDataToken (s : State) : Out :=
  atTokenPoll s fun o => .next (tokenFound o (receive Params.idleByte Params.dataToken s))

/-- A token poll answered by any other byte (R198, R199): poll again, or at the budget leave the data phase. -/
def execRxDataBusy (b : Byte) (s : State) : Out :=
  atTokenPoll s fun o => tokenMissed o (receive Params.idleByte b s)

end Sys2Proof.Machine
end

