-- ==== Sys2Proof/Machine/Request.lean ====
section
/-! DEFINITION. The host requests. Accepting one is this step; its body then runs position by position, the frames and
received bytes in it being instructions of their own (R16, R26, R37). -/

namespace Sys2Proof.Machine

/-- A request is accepted only when the engine is idle (R37, D14). -/
def whenIdle (s : State) (k : State) : Out :=
  match s.ctl with
  | .idle => .next k
  | .fault => .fault (.halted s.fault)
  | _ => .refused .portBusy

/-- INIT (R150): INIT_BUSY, Mode NONE before the first bus event (R151), POWER_CYCLE first (R152). -/
def execInit (s : State) : Out :=
  whenIdle s { s with mode := .none, w := Work.empty, ctl := .power .pwrOff }

/-- READ_SECTOR (R190): READ_BUSY, the sector and the buffer's handle taken from the request, the Mode check first
(R191). -/
def execReadSector (sector buf : U32) (s : State) : Out :=
  whenIdle s { s with
    w := { Work.empty with sector := some sector, buf := some (.caller buf) }
    ctl := .block .host .check }

end Sys2Proof.Machine
end

