-- ==== Sys2Proof/Machine/Dispatch.lean ====
section
/-! DEFINITION. One arm for every row of the opcode table. -/

namespace Sys2Proof.Machine

def exec (i : Instr) (s : State) : Host.Outcome State Fault Refusal :=
  match i with
  | .cmd0 => Sys2Proof.Machine.execCmd0 s
  | .cmd8 => Sys2Proof.Machine.execCmd8 s
  | .cmd17 warg => Sys2Proof.Machine.execCmd17 warg s
  | .cmd55 => Sys2Proof.Machine.execCmd55 s
  | .acmd41 => Sys2Proof.Machine.execAcmd41 s
  | .cmdN n arg => Sys2Proof.Machine.execCmdN n arg s
  | .init => Sys2Proof.Machine.execInit s
  | .readSector sector buf => Sys2Proof.Machine.execReadSector sector buf s
  | .rxR1NotArrived b => Sys2Proof.Machine.execRxR1NotArrived b s
  | .rxR1Vendor => Sys2Proof.Machine.execRxR1Vendor s
  | .rxR1Token f => Sys2Proof.Machine.execRxR1Token f s
  | .rxDataToken => Sys2Proof.Machine.execRxDataToken s
  | .rxDataBusy b => Sys2Proof.Machine.execRxDataBusy b s

end Sys2Proof.Machine
end

