-- ==== Sys2Proof/WellFormed.lean ====
section
/-! DEFINITION. The terms of `Instr` that the opcode table's rows stand for. Where two rows' patterns overlap the more
special row has the words (R79, R81, R88), so the general row's term is ill-formed there. -/

namespace Sys2Proof

/-- The generic frame form stands for the index and argument pairs that no row of its own has (R76, R112). -/
def Instr.genericFrame (n : Index) (arg : U32) : Bool :=
  !(n == Params.goIdleIndex && arg == Params.zeroArg)
    && !(n == Params.ifCondIndex && arg == Params.ifCondArg)
    && !(n == Params.readIndex)
    && !(n == Params.appIndex && arg == Params.zeroArg)
    && !(n == Params.acmdIndex && arg == Params.acmd41Arg)

/-- The check an instruction of the model passes: `cmdN` is none of the five emitted commands, a status token is not
the vendor byte (R79), a busy byte is not the data token (R81). -/
def Instr.wellFormed : Instr → Bool
  | .cmd0 => true
  | .cmd8 => true
  | .cmd17 _ => true
  | .cmd55 => true
  | .acmd41 => true
  | .cmdN n arg => Instr.genericFrame n arg
  | .init => true
  | .readSector _ _ => true
  | .rxR1NotArrived _ => true
  | .rxR1Vendor => true
  | .rxR1Token f => f.setWidth 8 != Params.vendorByte
  | .rxDataToken => true
  | .rxDataBusy b => b != Params.dataToken

end Sys2Proof
end

