-- ==== Sys2Proof/Decode.lean ====
section
/-! DEFINITION. The decoder, total on any bytes of any of the four streams, and after it the encoder (R70 to R88). -/

namespace Sys2Proof

/-- Why bytes are no instruction. -/
inductive DecodeError where
  /-- No byte at all. -/
  | empty
  /-- Fewer bytes than the object has: 6 of a frame (R87), 9 of a READ_SECTOR request (R84). -/
  | truncated
  /-- The start byte's bits 7..6 are not 01 (R72). -/
  | badStartBits
  /-- Bit 0 of the checksum byte is 0: no frame's last byte is even (R74). -/
  | badStopBit
  /-- Index 0 or 8 with a checksum byte other than its literal (R103, R104). -/
  | badLiteral
  /-- A request op code other than 0x01 and 0x02 (R84). -/
  | unknownOpcode (op : Byte)
deriving DecidableEq, Repr

/-- What the decoder answers: an instruction and the bytes after it, or a named rejection. -/
inductive Decoded where
  | ok (i : Instr) (rest : List Byte)
  | rejected (e : DecodeError)
deriving DecidableEq, Repr

/-- A command frame of six bytes (R71). The computed checksum bits are outside the table's masks (R88), so they are
not compared; the literals of index 0 and 8 are (log entry 5). -/
def decodeFrame : List Byte → Decoded
  | b0 :: b1 :: b2 :: b3 :: b4 :: b5 :: rest =>
    let index : Index := b0.extractLsb' 0 6
    if b0.extractLsb' 6 2 ≠ 1#2 then .rejected .badStartBits
    else if b5.getLsbD 0 = false then .rejected .badStopBit
    else if index = Params.goIdleIndex ∧ b5 ≠ Params.cmd0Crc then .rejected .badLiteral
    else if index = Params.ifCondIndex ∧ b5 ≠ Params.cmd8Crc then .rejected .badLiteral
    else .ok (frameRow index (ofBe32 b1 b2 b3 b4)) rest
  | [] => .rejected .empty
  | _ => .rejected .truncated

/-- A host request: the op code, and for READ_SECTOR the big-endian sector and the buffer handle (R84; the handle's
width and byte order are log entry 6). -/
def decodeHost : List Byte → Decoded
  | [] => .rejected .empty
  | op :: rest =>
    if op = Params.opInit then .ok .init rest
    else if op = Params.opReadSector then
      match rest with
      | s3 :: s2 :: s1 :: s0 :: h3 :: h2 :: h1 :: h0 :: rest' =>
        .ok (.readSector (ofBe32 s3 s2 s1 s0) (ofBe32 h3 h2 h1 h0)) rest'
      | _ => .rejected .truncated
    else .rejected (.unknownOpcode op)

/-- A byte received at a Response Reader poll: every value has a class (R79, R83). -/
def decodeR1 : List Byte → Decoded
  | [] => .rejected .empty
  | b :: rest => .ok (classifyR1 b) rest

/-- A byte received at a token poll: every value has a class (R81, R83). -/
def decodeData : List Byte → Decoded
  | [] => .rejected .empty
  | b :: rest => .ok (classifyData b) rest

/-- The decoder: which format is read is fixed by the stream alone (R87). -/
def decode : Stream → List Byte → Decoded
  | .frame, bs => decodeFrame bs
  | .host, bs => decodeHost bs
  | .r1, bs => decodeR1 bs
  | .data, bs => decodeData bs

/-- The encoder, written from the same tables (R71, R76, R79, R81, R84). -/
def encode : Instr → List Byte
  | .cmd0 => frameBytes Params.goIdleIndex Params.zeroArg
  | .cmd8 => frameBytes Params.ifCondIndex Params.ifCondArg
  | .cmd17 warg => frameBytes Params.readIndex warg
  | .cmd55 => frameBytes Params.appIndex Params.zeroArg
  | .acmd41 => frameBytes Params.acmdIndex Params.acmd41Arg
  | .cmdN n arg => frameBytes n arg
  | .init => [Params.opInit]
  | .readSector sector buf => Params.opReadSector :: (be32 sector ++ be32 buf)
  | .rxR1NotArrived b => [notArrivedByte b]
  | .rxR1Vendor => [Params.vendorByte]
  | .rxR1Token f => [tokenByte f]
  | .rxDataToken => [Params.dataToken]
  | .rxDataBusy b => [b]

/-- The six wire bytes of a 48-bit frame value: first-transmitted byte most significant (R71, R88). -/
def wordBytes48 (w : Nat) : List Byte :=
  let v : BitVec 48 := BitVec.ofNat 48 w
  [v.extractLsb' 40 8, v.extractLsb' 32 8, v.extractLsb' 24 8, v.extractLsb' 16 8, v.extractLsb' 8 8, v.extractLsb' 0 8]

/-- The stream an 8-bit word of the table is read from when nothing but the word is known: the op codes as host
requests, 0xFE as the data token, every other byte as a Response Reader byte. The rows overlap without the stream (R88), so
this order is the model's (log entry 7). -/
def tableStream8 (b : Byte) : Stream :=
  if b = Params.opInit ∨ b = Params.opReadSector then .host
  else if b = Params.dataToken then .data
  else .r1

/-- The instruction read from an opcode-table word of `nbits` bits, numbered as the table numbers it: a frame is one
48-bit value whose bits 47:40 are its first byte (R71, R88); every other row is one byte, READ_SECTOR's operands then
being zero. -/
def decodeTableWord (nbits w : Nat) : Option Instr :=
  if w < 2 ^ nbits then
    let answer : Decoded :=
      if nbits = 48 then decode .frame (wordBytes48 w)
      else if nbits = 8 then
        let b : Byte := BitVec.ofNat 8 w
        decode (tableStream8 b) (b :: (if b = Params.opReadSector then List.replicate 8 0#8 else []))
      else .rejected .truncated
    match answer with
    | .ok i _ => some i
    | .rejected _ => none
  else none

end Sys2Proof
end

