-- ==== Sys2Proof/Machine/Internal.lean ====
section
/-! DEFINITION. The engine executed one position at a time: each position of R27 executes at most one primitive of R15
(R16). -/

namespace Sys2Proof.Machine

/-- One position of POWER_CYCLE (R153, R154). After the last, GO_IDLE's first attempt. -/
def advancePower (p : PowerPos) (s : State) : Out :=
  match p with
  | .pwrOff => .next { setPower false s with ctl := .power .waitOff }
  | .waitOff => .next { delayUs Config.tPwrOffUs s with ctl := .power .pwrOn }
  | .pwrOn => .next { setPower true s with ctl := .power .waitOn }
  | .waitOn => .next { delayUs Config.tPwrOnUs s with ctl := .power .primeCsLow }
  | .primeCsLow => .next { setCs .low s with ctl := .power (.primeXfer 0) }
  | .primeXfer k =>
    let t := xfer Params.idleByte s
    if h : k.val + 1 < Params.primeBytes then .next { t with ctl := .power (.primeXfer ⟨k.val + 1, h⟩) }
    else .next { t with ctl := .power .primeCsHigh }
  | .primeCsHigh => .next (tryGoIdle 1 (setCs .high s))

/-- One position of FRAME (R100). The index and argument are the working registers; the received bytes are discarded. -/
def advanceFrame (c : Site) (p : FramePos) (s : State) : Out :=
  match p with
  | .csLow =>
    needReg s.w.idx .idx s fun index => needReg s.w.arg .arg s fun arg =>
      .next { setCs .low (buildFrame index arg s) with ctl := .frame c (.xfer 0) }
  | .xfer i =>
    needReg s.w.frame .frame s fun f =>
      let t := xfer (f.byte i) s
      if h : i.val + 1 < Params.frameLen then .next { t with ctl := .frame c (.xfer ⟨i.val + 1, h⟩) }
      else .next { t with ctl := .frame c .csHigh }
  | .csHigh => .next (enterReadR1 c (setCs .high s))

/-- One exchange of READ_R1 inside an open bracket: `tok <- Xfer(0xFF)` (R130). -/
def r1Xfer (s : State) : State :=
  let b := nextByte s
  let t := xfer Params.idleByte s
  { t with w := { t.w with tok := some b } }

/-- One position of READ_R1 (R130, R132, R133, R134). -/
def advanceR1 (c : Site) (p : R1Pos) (s : State) : Out :=
  match p with
  | .pollCsLow => .next { setCs .low s with ctl := .r1 c .pollXfer }
  | .pollXfer => .next { r1Xfer s with ctl := .r1 c .pollCsHigh }
  | .pollCsHigh =>
    let t := setCs .high s
    needReg t.w.tok .tok t fun b =>
      if r1Arrived b then
        if b = Params.vendorByte then .next { t with ctl := .r1 c .extraCsLow } else r1Return c b t
      else pollMissed c b t
  | .extraCsLow => .next { setCs .low s with ctl := .r1 c .extraXfer }
  | .extraXfer => .next { r1Xfer s with ctl := .r1 c .extraCsHigh }
  | .extraCsHigh =>
    let t := setCs .high s
    needReg t.w.tok .tok t fun b => r1Return c b t

/-- The retry delay between attempts, and the next attempt (R160). -/
def advanceDelay (d : RetryWait) (s : State) : Out :=
  needReg s.w.attempt .attempt s fun n =>
    let t := delayUs Params.tRetryUs s
    match d with
    | .ifCond => .next (tryIfCond (n + 1) t)
    | .negotiate => .next (tryNegotiate (n + 1) t)

/-- ProbeMode's first line, and its call of BLOCK_READ on sector 1 and the scratch buffer (R165, R166, R167). -/
def advanceSetMode (s : State) : Out :=
  .next { s with
    mode := .sdhc, ctl := .block .probe .check,
    w := { s.w with sector := some Params.probeSector, buf := some .scratch } }

/-- A data exchange: the byte received goes to offset `i` of the buffer (R52, R200). -/
def advanceData (o : Owner) (s : State) : Out :=
  needReg s.w.i .i s fun i => needReg s.w.buf .buf s fun b =>
    let d := nextByte s
    let t := xfer Params.idleByte s
    match memWrite b i.toNat 1 d t with
    | .next u =>
      .next { u with
        w := { u.w with i := some (i + 1) }
        ctl := .block o (if i.toNat + 1 < Params.sectorSize then .data else .crc) }
    | .fault f => .fault f
    | .refused r => .refused r

/-- A checksum exchange: the byte is discarded (R201). The index of the two bytes goes on from the data's. -/
def advanceCrc (o : Owner) (s : State) : Out :=
  needReg s.w.i .i s fun i =>
    let t := xfer Params.idleByte s
    if i.toNat + 1 < Params.sectorSize + Params.dataCrcBytes then
      .next { t with w := { t.w with i := some (i + 1) }, ctl := .block o .crc }
    else .next { t with ctl := .block o (.dataCsHigh true) }

/-- One position of BLOCK_READ (R190 to R202). -/
def advanceBlock (o : Owner) (p : BlockPos) (s : State) : Out :=
  match p with
  | .check =>
    if s.mode = .none then .next (raiseFault .notReady s) else .next { s with ctl := .block o .zero }
  | .zero =>
    needReg s.w.buf .buf s fun b => memWrite b 0 Params.sectorSize 0x00 { s with ctl := .block o .arg }
  | .arg =>
    needReg s.w.sector .sector s fun sector =>
      match wireArg s.mode sector with
      | .ok warg => .next (callFrame (.block o) Params.readIndex warg s)
      | .error n => .next (raiseFault n s)
  | .dataCsLow =>
    let t := setCs .low s
    .next { t with w := { t.w with poll := some 1 }, ctl := .block o .tokenPoll }
  | .tokenPoll =>
    let t := xfer Params.idleByte s
    if nextByte s = Params.dataToken then .next (tokenFound o t) else tokenMissed o t
  | .data => advanceData o s
  | .crc => advanceCrc o s
  | .dataCsHigh found => .next (blockReturn o (if found then none else some .timeout) (setCs .high s))

/-- One position of the engine (R27). Idle, it does nothing until the host issues a request (R261); in FAULT no step is
enabled (R240). -/
def advance (s : State) : Out :=
  match s.ctl with
  | .idle => .next s
  | .power p => advancePower p s
  | .frame c p => advanceFrame c p s
  | .r1 c p => advanceR1 c p s
  | .delay d => advanceDelay d s
  | .setMode => advanceSetMode s
  | .block o p => advanceBlock o p s
  | .fault => .fault (.halted s.fault)

end Sys2Proof.Machine
end

