-- ==== Sys2Proof/Machine/Fetch.lean ====
section
/-! DEFINITION. Where the next instruction stands: at the request port when the engine is idle, in the registers `idx`
and `arg` at a FRAME call, on the bus at a poll. The engine has no instruction memory (R50, R62; log entry 12). -/

namespace Sys2Proof.Machine

/-- What a state offers the next step. -/
inductive Fetched where
  /-- An instruction, and the state it is run in (the request's bytes taken from the port). -/
  | run (i : Instr) (s : State)
  /-- Idle with no request: the engine does nothing (R261). -/
  | wait
  /-- A position with no instruction of the table: the engine executes it (R27). -/
  | position
  /-- The step stops with a fault. -/
  | stop (f : Fault)
  /-- The request port refuses what stands at it (R84). -/
  | refuse (r : Refusal)
deriving DecidableEq, Repr

/-- The decoder's answer on the bytes of a stream, as a fetch; `after` is the state with the bytes left over. -/
def fetched (d : Decoded) (after : List Byte → State) : Fetched :=
  match d with
  | .ok i rest => .run i (after rest)
  | .rejected .empty => .wait
  | .rejected (.unknownOpcode op) => .refuse (.unknownOpcode op)
  | .rejected _ => .refuse .truncatedRequest

/-- The instruction a FRAME call transmits: the row of its index and argument registers (R28, R76). Where one of the two
holds no value there is no instruction, and the position itself is executed, which raises the model fault (R28). -/
def fetchFrame (s : State) : Fetched :=
  match s.w.idx, s.w.arg with
  | some index, some arg => .run (frameRow index arg) s
  | _, _ => .position

/-- What the next step finds (R26, R27). -/
def fetch (s : State) : Fetched :=
  match s.ctl with
  | .idle => fetched (decode .host s.port) fun rest => { s with port := rest }
  | .frame _ .csLow => fetchFrame s
  | .r1 _ .pollCsLow => fetched (decode .r1 [nextByte s]) fun _ => s
  | .block _ .tokenPoll => fetched (decode .data [nextByte s]) fun _ => s
  | .fault => .stop (.halted s.fault)
  | _ => .position

/-- The state with control at a FRAME call of the site, the two registers FRAME reads written. -/
def placeFrame (c : Site) (index : Index) (arg : U32) (s : State) : State :=
  { s with fault := none, ctl := .frame c .csLow, w := { s.w with idx := some index, arg := some arg } }

/-- The state with control at the first Response Reader poll of GO_IDLE's first attempt, and the response's bytes next on
the bus: one, or two when the vendor byte is the first (R87). -/
def placeR1 (bs : List Byte) (s : State) : State :=
  { s with
    fault := none, ctl := .r1 .goIdle .pollCsLow, card := bs ++ s.card,
    w := { s.w with poll := some 1, attempt := some 1 } }

/-- The state with control at the first token poll of a host read, its bracket open, and the byte next on the bus. -/
def placeData (b : Byte) (s : State) : State :=
  { s with
    fault := none, cs := .low, ctl := .block .host .tokenPoll, card := b :: s.card,
    w := { s.w with poll := some 1 } }

/-- The state in which the next step fetches the instruction (log entry 12): a request at the port of the idle engine, a
frame at the FRAME call of the procedure that sends it (the generic form at GO_IDLE's), a byte on the bus at a poll. -/
def placeInstr (i : Instr) (s : State) : State :=
  match i with
  | .cmd0 => placeFrame .goIdle Params.goIdleIndex Params.zeroArg s
  | .cmd8 => placeFrame .ifCond Params.ifCondIndex Params.ifCondArg s
  | .cmd17 warg => placeFrame (.block .host) Params.readIndex warg s
  | .cmd55 => placeFrame .app55 Params.appIndex Params.zeroArg s
  | .acmd41 => placeFrame .acmd41 Params.acmdIndex Params.acmd41Arg s
  | .cmdN n arg => placeFrame .goIdle n arg s
  | .init => { s with fault := none, ctl := .idle, port := encode .init }
  | .readSector sector buf => { s with fault := none, ctl := .idle, port := encode (.readSector sector buf) }
  | .rxR1NotArrived b => placeR1 [notArrivedByte b] s
  | .rxR1Vendor => placeR1 [Params.vendorByte, 0x00] s
  | .rxR1Token f => placeR1 [tokenByte f] s
  | .rxDataToken => placeData Params.dataToken s
  | .rxDataBusy b => placeData b s

end Sys2Proof.Machine
end

