-- ==== Sys2Proof/Machine/Step.lean ====
section
/-! DEFINITION. One step of the engine. -/

namespace Sys2Proof.Machine

/-- One step: the instruction the state offers is run whole (a frame's eight events, a poll's bracket); a position with
no instruction executes its one primitive (R16, R27); the idle engine with no request waits (R261). -/
def step (s : State) : Host.Outcome State Fault Refusal :=
  match fetch s with
  | .run i t => exec i t
  | .wait => .next s
  | .position => advance s
  | .stop f => .fault f
  | .refuse r => .refused r

/-- `s` with the instruction whose opcode-table bits are `w` placed where the next step fetches (log entry 12). Bits that
are no instruction leave at the request port of the idle engine the byte 0x00, no op code, which the next step refuses. -/
def State.withFetchWord (s : State) (nbits w : Nat) : State :=
  match decodeTableWord nbits w with
  | some i => placeInstr i s
  | none => { s with fault := none, ctl := .idle, port := [0x00] }

end Sys2Proof.Machine
end

