-- ==== Sys2Proof/Safety.lean ====
section
/-! DEFINITION. What counts as a legal state and a legal bus trace, how much of a request is left, and what two runs that
differ in memory alone have in common: the terms the statements use. -/

namespace Sys2Proof.Machine

/-! ### Draws and events -/

/-- The byte the `n`-th exchange from here will receive, whatever is sent (R35). -/
def drawn (s : State) (n : Nat) : Byte :=
  match s.card.drop n with
  | b :: _ => b
  | [] => Config.cardByte (s.draws + n)

/-- The eight events of a frame whose exchanges receive the next six bytes of the card (R100). -/
def frameEvents (s : State) (b0 b1 b2 b3 b4 b5 : Byte) : List Event :=
  [.cs .low, .xfer b0 (drawn s 0), .xfer b1 (drawn s 1), .xfer b2 (drawn s 2), .xfer b3 (drawn s 3),
    .xfer b4 (drawn s 4), .xfer b5 (drawn s 5), .cs .high]

/-- What FRAME leaves for its caller: the eight events, the frame register, chip-select high, six bytes of the card gone
(R100). -/
def sentFrame (s : State) (f : Frame) : State :=
  { s with
    cs := .high, trace := s.trace ++ frameEvents s f.b0 f.b1 f.b2 f.b3 f.b4 f.b5
    card := s.card.drop 6, draws := s.draws + 6, w := { s.w with frame := some f } }

/-- The three events of a Response Reader exchange that receives `b` (R131). -/
def pollEvents (b : Byte) : List Event := [.cs .low, .xfer 0xFF b, .cs .high]

/-- What one Response Reader exchange that receives `b` leaves: the three events, the token register, chip-select high,
one byte of the card gone (R130, R131). -/
def polled (s : State) (b : Byte) : State :=
  { s with
    cs := .high, trace := s.trace ++ pollEvents b, card := s.card.tail, draws := s.draws + 1
    w := { s.w with tok := some b } }

/-- What an exchange that sends `out` and receives the card's next byte leaves (R15). -/
def exchanged (s : State) (out : Byte) : State :=
  { s with trace := s.trace ++ [.xfer out (drawn s 0)], card := s.card.tail, draws := s.draws + 1 }

/-- Chip-select after a list of events that begins at a level, if the bracket discipline is kept: a bracket is never
opened inside another, never closed twice, exchanges stand inside one, power and delays outside (R60, R270). -/
def bracketScan : Level → List Event → Option Level
  | l, [] => some l
  | .high, .cs .low :: es => bracketScan .low es
  | .low, .cs .high :: es => bracketScan .high es
  | .low, .xfer _ _ :: es => bracketScan .low es
  | .high, .power _ :: es => bracketScan .high es
  | .high, .delay _ :: es => bracketScan .high es
  | _, _ => none

/-! ### The legal states -/

/-- The positions inside an open chip-select bracket (R24, R172). -/
def Ctl.bracketOpen : Ctl → Bool
  | .power (.primeXfer _) | .power .primeCsHigh => true
  | .frame _ (.xfer _) | .frame _ .csHigh => true
  | .r1 _ .pollXfer | .r1 _ .pollCsHigh | .r1 _ .extraXfer | .r1 _ .extraCsHigh => true
  | .block _ .tokenPoll | .block _ .data | .block _ .crc | .block _ (.dataCsHigh _) => true
  | _ => false

/-- The chip-select level a position requires. -/
def Ctl.level (c : Ctl) : Level := if c.bracketOpen then .low else .high

/-- Whether a working register holds a value (R28). -/
def Work.holds (w : Work) : WorkReg → Bool
  | .attempt => w.attempt.isSome
  | .poll => w.poll.isSome
  | .tok => w.tok.isSome
  | .frame => w.frame.isSome
  | .idx => w.idx.isSome
  | .arg => w.arg.isSome
  | .sector => w.sector.isSome
  | .buf => w.buf.isSome
  | .i => w.i.isSome

/-- The working registers a step may read at a position (R27, R28). -/
def Ctl.reads : Ctl → WorkReg → Bool
  | .frame _ .csLow, .idx | .frame _ .csLow, .arg | .frame _ (.xfer _), .frame => true
  | .r1 _ .pollCsLow, .poll | .r1 _ .pollCsHigh, .poll => true
  | .r1 _ .pollCsHigh, .tok | .r1 _ .extraCsHigh, .tok => true
  | .r1 .goIdle _, .attempt | .r1 .ifCond _, .attempt | .r1 .acmd41 _, .attempt => true
  | .delay _, .attempt => true
  | .block _ .zero, .buf | .block _ .arg, .sector | .block _ .tokenPoll, .poll => true
  | .block _ .data, .i | .block _ .data, .buf | .block _ .crc, .i => true
  | _, _ => false

/-- The attempt counter holds a number from 1 to the budget (R28). -/
def Work.attemptIn (w : Work) (budget : Nat) : Prop := ∃ n, w.attempt = some n ∧ 1 ≤ n.toNat ∧ n.toNat ≤ budget

/-- The poll counter holds a number from 1 to the budget (R28). -/
def Work.pollIn (w : Work) (budget : Nat) : Prop := ∃ n, w.poll = some n ∧ 1 ≤ n.toNat ∧ n.toNat ≤ budget

/-- The stream index holds a number in a range (R28). -/
def Work.indexIn (w : Work) (lo hi : Nat) : Prop := ∃ n, w.i = some n ∧ lo ≤ n.toNat ∧ n.toNat ≤ hi

/-- The operands of a block read: the trial read's are fixed, the host's come from the request (R167, R190). -/
def Work.readOf (w : Work) : Owner → Prop
  | .probe => w.sector = some Params.probeSector ∧ w.buf = some .scratch
  | .host => (∃ x, w.sector = some x) ∧ ∃ h, w.buf = some (.caller h)

/-- The index of the frame a site sends (R76). -/
def Site.index : Site → Index
  | .goIdle => Params.goIdleIndex
  | .ifCond => Params.ifCondIndex
  | .app55 => Params.appIndex
  | .acmd41 => Params.acmdIndex
  | .block _ => Params.readIndex

/-- The argument of the frame a site sends (R76). -/
def Site.sends (c : Site) (m : Mode) (w : Work) (arg : U32) : Prop :=
  match c with
  | .goIdle => arg = Params.zeroArg
  | .ifCond => arg = Params.ifCondArg
  | .app55 => arg = Params.zeroArg
  | .acmd41 => arg = Params.acmd41Arg
  | .block _ => ∃ x, w.sector = some x ∧ wireArg m x = .ok arg

/-- The registers a site's caller needs when READ_R1 returns. -/
def Site.regs (c : Site) (w : Work) : Prop :=
  match c with
  | .goIdle => w.attemptIn Params.goIdleBudget
  | .ifCond => w.attemptIn Params.ifCondBudget
  | .app55 => w.attemptIn Params.negotiateBudget
  | .acmd41 => w.attemptIn Params.negotiateBudget
  | .block o => w.readOf o

/-- The registers FRAME needs: the site's index and argument, and the frame built of them once its bracket is open. -/
def frameRegs (c : Site) (p : FramePos) (m : Mode) (w : Work) : Prop :=
  w.idx = some c.index ∧ ∃ arg, w.arg = some arg ∧ c.sends m w arg ∧
    (p = .csLow ∨ w.frame = some (Frame.build c.index arg))

/-- The registers READ_R1 needs: the poll counter, and the token once a byte is in. -/
def r1Regs (p : R1Pos) (w : Work) : Prop :=
  w.pollIn Params.r1PollBudget ∧ (p = .pollCsHigh ∨ p = .extraCsHigh → ∃ b, w.tok = some b)

/-- Every register a position reads holds a value of its range, and idle, in POWER_CYCLE or in FAULT none holds one (R28). -/
def regsOk (m : Mode) (w : Work) : Ctl → Prop
  | .idle => w = Work.empty
  | .power _ => w = Work.empty
  | .frame c p => frameRegs c p m w ∧ c.regs w
  | .r1 c p => r1Regs p w ∧ c.regs w
  | .delay .ifCond => ∃ n, w.attempt = some n ∧ 1 ≤ n.toNat ∧ n.toNat < Params.ifCondBudget
  | .delay .negotiate => ∃ n, w.attempt = some n ∧ 1 ≤ n.toNat ∧ n.toNat < Params.negotiateBudget
  | .setMode => True
  | .block o p => w.readOf o ∧
      match p with
      | .tokenPoll => w.pollIn Params.tokenPollBudget
      | .data => w.indexIn 0 511
      | .crc => w.indexIn 512 513
      | _ => True
  | .fault => w = Work.empty

/-- The block read a position belongs to, if any. -/
def Ctl.reading : Ctl → Option Owner
  | .frame (.block o) _ => some o
  | .r1 (.block o) _ => some o
  | .block o _ => some o
  | _ => none

/-- Mode by position: NONE through the bring-up, SDHC in the trial read, not NONE in a read past its check (R151, R166,
R191). -/
def modeOk (m : Mode) (c : Ctl) : Prop :=
  match c.reading with
  | some .probe => m = .sdhc
  | some .host => c = .block .host .check ∨ m ≠ .none
  | none => c = .idle ∨ c = .fault ∨ m = .none

/-- Card power by position: off between the two edges of POWER_CYCLE, on in the rest of INIT after it and whenever Mode
is fixed (R25, R153, R173). -/
def pwrOk (m : Mode) (pwr : Bool) (c : Ctl) : Prop :=
  match c with
  | .power .pwrOff => True
  | .power .waitOff | .power .pwrOn => pwr = false
  | _ => (c.top = .initBusy ∨ m ≠ .none) → pwr = true

/-- The legal states: what every step keeps, from any state that has it. -/
structure Inv (s : State) : Prop where
  /-- Chip-select is at the position's level; HIGH when idle (R24). -/
  cs : s.cs = s.ctl.level
  /-- The fault mark is set in FAULT and nowhere else (R240). -/
  mark : s.fault.isSome = true ↔ s.ctl = .fault
  /-- The callers' buffers are in canonical form. -/
  mem : Mem.wf s.mem = true
  /-- The scratch buffer is in canonical form. -/
  scratch : Mem.wf s.scratch = true
  /-- The scratch buffer has offsets 0 to 511 and no others (R29). -/
  scratchSize : ∀ c ∈ s.scratch, c.1 < Params.sectorSize
  /-- Mode is what the position requires. -/
  mode : modeOk s.mode s.ctl
  /-- Card power is what the position requires. -/
  pwr : pwrOk s.mode s.pwr s.ctl
  /-- The working registers are what the position requires. -/
  regs : regsOk s.mode s.w s.ctl

/-- Every bracket on the bus so far was opened and closed in order, and chip-select is where the trace left it. -/
def Bracketed (s : State) : Prop := bracketScan .high s.trace = some s.cs

/-! ### What is left of a request -/

/-- The number in the attempt counter, 0 where it holds none. -/
def Work.attemptNo (w : Work) : Nat := (w.attempt.getD 0).toNat

/-- The number in the poll counter, 0 where it holds none. -/
def Work.pollNo (w : Work) : Nat := (w.poll.getD 0).toNat

/-- The number in the stream index, 0 where it holds none. -/
def Work.indexNo (w : Work) : Nat := (w.i.getD 0).toNat

/-- Events still to come inside READ_R1 from poll `k`, with the vendor byte's extra exchange (R136). -/
def r1EventsLeft (p : R1Pos) (k : Nat) : Nat :=
  match p with
  | .pollCsLow => 3 * (101 - k) + 3
  | .pollXfer => 3 * (101 - k) + 2
  | .pollCsHigh => 3 * (101 - k) + 1
  | .extraCsLow => 3
  | .extraXfer => 2
  | .extraCsHigh => 1

/-- Events still to come inside FRAME and the READ_R1 after it (R100, R136). -/
def frameEventsLeft : FramePos → Nat
  | .csLow => 8 + 303
  | .xfer i => (7 - i.val) + 303
  | .csHigh => 1 + 303

/-- Events of a block read's data phase at its longest (R205): both bracket edges, every token poll, 514 exchanges. -/
@[irreducible] def dataEvents : Nat := 1 + Params.tokenPollBudget + 514 + 1

/-- Events of a block read at its longest: an exchange's 311 and the data phase (R205). -/
@[irreducible] def readEvents : Nat := 311 + dataEvents

/-- Events from NEGOTIATE_CAPACITY on at their most: 622 an attempt and a delay between attempts (R174). -/
@[irreducible] def negotiateEvents : Nat := 622 + (Params.negotiateBudget - 1) * 623 + readEvents

/-- Events from CHECK_INTERFACE on at their most: 311 an attempt and a delay between attempts (R174). -/
@[irreducible] def ifCondEvents : Nat := 311 + (Params.ifCondBudget - 1) * 312 + negotiateEvents

/-- Events from GO_IDLE on at their most: 311 an attempt (R174). -/
@[irreducible] def goIdleEvents : Nat := 311 + (Params.goIdleBudget - 1) * 311 + ifCondEvents

/-- Events still to come after the command exchange at a site, at attempt `n` (R174, R205). -/
def afterSite (c : Site) (n : Nat) : Nat :=
  match c with
  | .block _ => dataEvents
  | .acmd41 => (Params.negotiateBudget - n) * 623 + readEvents
  | .app55 => 311 + ((Params.negotiateBudget - n) * 623 + readEvents)
  | .ifCond => (Params.ifCondBudget - n) * 312 + negotiateEvents
  | .goIdle => (Params.goIdleBudget - n) * 311 + ifCondEvents

/-- Events still to come inside POWER_CYCLE (R153, R154). -/
def powerEventsLeft : PowerPos → Nat
  | .pwrOff => 16
  | .waitOff => 15
  | .pwrOn => 14
  | .waitOn => 13
  | .primeCsLow => 12
  | .primeXfer k => 11 - k.val
  | .primeCsHigh => 1

/-- Events still to come inside BLOCK_READ (R205). -/
def blockEventsLeft (p : BlockPos) (w : Work) : Nat :=
  match p with
  | .check | .zero | .arg => readEvents
  | .dataCsLow => dataEvents
  | .tokenPoll => (Params.tokenPollBudget + 1 - w.pollNo) + 515
  | .data | .crc => (514 - w.indexNo) + 1
  | .dataCsHigh _ => 1

/-- The most bus events the running request can still produce (R174, R205, R273); none when no request runs. -/
def eventsLeft (s : State) : Nat :=
  match s.ctl with
  | .idle | .fault => 0
  | .power p => powerEventsLeft p + goIdleEvents
  | .frame c p => frameEventsLeft p + afterSite c (s.w.attemptNo)
  | .r1 c p => r1EventsLeft p (s.w.pollNo) + afterSite c (s.w.attemptNo)
  | .delay .ifCond => afterSite .ifCond (s.w.attemptNo)
  | .delay .negotiate => afterSite .acmd41 (s.w.attemptNo)
  | .setMode => readEvents
  | .block _ p => blockEventsLeft p s.w

/-- The steps still to come that record no event: SET_MODE, CHECK, ZERO and ARG (R27). -/
def silentLeft : Ctl → Nat
  | .idle | .fault => 0
  | .block _ .check => 3
  | .block _ .zero => 2
  | .block _ .arg => 1
  | .block _ _ => 0
  | .frame (.block _) _ => 0
  | .r1 (.block _) _ => 0
  | _ => 4

/-- The most steps the running request can still take. -/
def stepsLeft (s : State) : Nat := eventsLeft s + silentLeft s.ctl

/-! ### Runs -/

/-- `n` steps, ending at the first fault or refusal. -/
def runSteps : Nat → State → Out
  | 0, s => .next s
  | n + 1, s =>
    match step s with
    | .next t => runSteps n t
    | .fault f => .fault f
    | .refused r => .refused r

/-- `n` positions executed one by one (R27), ending at the first fault or refusal. -/
def runPositions : Nat → State → Out
  | 0, s => .next s
  | n + 1, s =>
    match advance s with
    | .next t => runPositions n t
    | .fault f => .fault f
    | .refused r => .refused r

/-! ### Runs that differ in memory alone -/

/-- The state without the contents of any buffer. -/
def State.blind (s : State) : State := { s with mem := [], scratch := [] }

/-- An outcome without the contents of any buffer. -/
def blindOut : Out → Out
  | .next s => .next s.blind
  | .fault f => .fault f
  | .refused r => .refused r

end Sys2Proof.Machine
end

