-- ==== Sys2Proof/Certificates/Slice0/Obligations.lean ====
section
/-! DEFINITION. The statements for the provers. Each docstring names the rule of spec/ it formalises. -/

open Sys2Proof Sys2Proof.Machine

/-! ### Reset and the step -/

/-- R260, R43: what engine reset leaves, from any state, a FAULT state among them. The scratch buffer is unspecified.
The values other than Mode's are the spec's decisions D1, D14, D15, D20 and D29. -/
def Obligations.EngineResetLeavesResetValues : Prop :=
  ∀ s : State,
    let t := engineReset s
    t.mode = .none ∧ t.cs = .high ∧ t.pwr = Config.pwrReset ∧ t.ctl = .idle ∧ t.ctl.top = .idle ∧ t.w = Work.empty ∧
      t.trace = [] ∧ t.fault = none

/-- The state after reset is legal and its trace bracketed (R24, R43). The invariant is the model's; the reset values
are the spec's decisions D14, D15 and D29. -/
def Obligations.ResetStateIsLegal : Prop := Inv State.reset ∧ Bracketed State.reset

/-- R261: the idle engine with no request does nothing. The spec's decision D14. -/
def Obligations.IdleEngineWaitsForRequest : Prop :=
  ∀ s : State, s.ctl = .idle → s.port = [] → step s = .next s

/-- A step runs the instruction the decoder reads where the state fetches: at the request port (whose bytes are taken),
in the index and argument of a FRAME call (the row of the frame those two build), on the bus at a poll. Where the state
fetches none, a step executes the one position (R16, R27). That a step is one instruction is the model's granularity
(log entry 13). -/
def Obligations.StepRunsDecodedInstruction : Prop :=
  (∀ (s : State) (i : Instr) (rest : List Byte), s.ctl = .idle → decode .host s.port = .ok i rest →
    step s = exec i { s with port := rest }) ∧
  (∀ (s : State) (c : Site) (index : Index) (arg : U32), s.ctl = .frame c .csLow → s.w.idx = some index →
    s.w.arg = some arg →
    ∃ i, decode .frame (frameBytes index arg) = .ok i [] ∧ step s = exec i s) ∧
  (∀ (s : State) (c : Site), s.ctl = .frame c .csLow → s.w.idx = none ∨ s.w.arg = none → step s = advance s) ∧
  (∀ (s : State) (c : Site), s.ctl = .r1 c .pollCsLow →
    ∃ i, decode .r1 [nextByte s] = .ok i [] ∧ step s = exec i s) ∧
  (∀ (s : State) (o : Owner), s.ctl = .block o .tokenPoll →
    ∃ i, decode .data [nextByte s] = .ok i [] ∧ step s = exec i s) ∧
  (∀ s : State, s.ctl ≠ .idle → s.ctl ≠ .fault → (∀ c, s.ctl ≠ .frame c .csLow) → (∀ c, s.ctl ≠ .r1 c .pollCsLow) →
    (∀ o, s.ctl ≠ .block o .tokenPoll) → step s = advance s)

/-! ### Encodings -/

/-- Words written out from the opcode table decode to their rows (R76, R84, R107 to R112, R79, R81). That the computed
checksum bits are not compared and that a handle is four big-endian bytes are the model's choices (log entries 5 and 6).
-/
def Obligations.TableWordsDecode : Prop :=
  decode .frame [0x40, 0x00, 0x00, 0x00, 0x00, 0x95] = .ok .cmd0 [] ∧
  decode .frame [0x48, 0x00, 0x00, 0x01, 0xAA, 0x87] = .ok .cmd8 [] ∧
  decode .frame [0x51, 0x00, 0x00, 0x00, 0x05, 0x0F] = .ok (.cmd17 5) [] ∧
  decode .frame [0x77, 0x00, 0x00, 0x00, 0x00, 0x65] = .ok .cmd55 [] ∧
  decode .frame [0x69, 0x40, 0x00, 0x00, 0x00, 0x77] = .ok .acmd41 [] ∧
  decode .frame [0x7F, 0xFF, 0xFF, 0xFF, 0xFF, 0x19] = .ok (.cmdN 63 0xFFFFFFFF) [] ∧
  decode .host [0x01] = .ok .init [] ∧
  decode .host [0x02, 0x12, 0x34, 0x56, 0x78, 0x00, 0x00, 0x00, 0x09] = .ok (.readSector 0x12345678 9) [] ∧
  decode .r1 [0xFF] = .ok (.rxR1NotArrived 0x7F) [] ∧
  decode .r1 [0x1F] = .ok .rxR1Vendor [] ∧
  decode .r1 [0x05] = .ok (.rxR1Token 5) [] ∧
  decode .data [0xFE] = .ok .rxDataToken [] ∧
  decode .data [0x01] = .ok (.rxDataBusy 1) []

/-- Decoding the encoding of a well-formed instruction gives it back, with every operand (R71 to R84). The handle's four
bytes are the model's choice (log entry 6). -/
def Obligations.DecodeOfEncode : Prop :=
  ∀ (i : Instr) (rest : List Byte), i.wellFormed = true → decode i.stream (encode i ++ rest) = .ok i rest

/-- What the decoder answers is well-formed and of the stream read. Outside frames the bytes read are the instruction's
encoding. In a frame the first five are; the sixth has the stop bit (R74, R88), and is 0x95 for index 0 and 0x87 for
index 8 (R103, R104), but of a computed checksum the other bits are not compared (log entry 5). -/
def Obligations.DecodedIsWellFormed : Prop :=
  ∀ (st : Stream) (bs rest : List Byte) (i : Instr), decode st bs = .ok i rest →
    i.wellFormed = true ∧ i.stream = st ∧ (st ≠ .frame → bs = encode i ++ rest) ∧
      (st = .frame → ∃ c : Byte, bs = (encode i).take 5 ++ c :: rest ∧ c.getLsbD 0 = true ∧
        ((encode i).head? = some 0x40 → c = 0x95) ∧ ((encode i).head? = some 0x48 → c = 0x87))

/-- R79, R81, R83: no received byte is illegal; each is of exactly one class of its stream. That every byte but 0xFE is
busy is the spec's decision D11. -/
def Obligations.EveryReceivedByteHasAClass : Prop :=
  ∀ (b : Byte) (rest : List Byte),
    (decode .r1 (b :: rest) =
      if b.getLsbD 7 = true then .ok (.rxR1NotArrived (b.extractLsb' 0 7)) rest
      else if b = 0x1F then .ok .rxR1Vendor rest
      else .ok (.rxR1Token (b.extractLsb' 0 7)) rest) ∧
    (decode .data (b :: rest) = if b = 0xFE then .ok .rxDataToken rest else .ok (.rxDataBusy b) rest)

/-- R101 to R105: the six bytes of any frame. -/
def Obligations.FrameBytesFollowFormat : Prop :=
  ∀ (index : Index) (arg : U32),
    let head : List Byte := [0x40#8 ||| index.setWidth 8, arg.extractLsb' 24 8, arg.extractLsb' 16 8,
      arg.extractLsb' 8 8, arg.extractLsb' 0 8]
    (index = 0 → frameBytes index arg = head ++ [0x95]) ∧
    (index = 8 → frameBytes index arg = head ++ [0x87]) ∧
    (index ≠ 0 → index ≠ 8 →
      frameBytes index arg = head ++ [((Config.crc7 head).setWidth 8 <<< 1) ||| 0x01]) ∧
    (∃ c : Byte, frameBytes index arg = head ++ [c] ∧ c.getLsbD 0 = true) ∧
    (head.head! = 0x40 + index.setWidth 8 ∧ 0x40 ≤ head.head!.toNat ∧ head.head!.toNat ≤ 0x7F)

/-- R114: FRAME of any index and argument, in any state, records exactly one bracket: CS(LOW), six exchanges, CS(HIGH).
The byte of the sixth is 0x95 for index 0 and 0x87 for index 8, whatever the argument, and for every other index `(crc7
<< 1) | 1` of the five bytes before it. -/
def Obligations.EveryFrameIsOneBracket : Prop :=
  ∀ (s : State) (index : Index) (arg : U32), ∃ b0 b1 b2 b3 b4 k r0 r1 r2 r3 r4 r5 : Byte,
    (frameProc index arg s).trace = s.trace ++ [.cs .low, .xfer b0 r0, .xfer b1 r1, .xfer b2 r2, .xfer b3 r3, .xfer b4 r4,
      .xfer k r5, .cs .high] ∧
    [b0, b1, b2, b3, b4, k] = frameBytes index arg ∧
    (index = 0 → k = 0x95) ∧ (index = 8 → k = 0x87) ∧
    (index ≠ 0 → index ≠ 8 → k = ((Config.crc7 [b0, b1, b2, b3, b4]).setWidth 8 <<< 1) ||| 0x01)

/-- R85: the numeric forms of the results, and which of them carries a payload. The spec's decision D2. -/
def Obligations.ResultCodes : Prop :=
  HostResult.ok.code = 0x00 ∧ (HostResult.initErr .goIdleFailed).code = 0x01 ∧
  (HostResult.initErr .unsupportedCard).code = 0x02 ∧ (HostResult.initErr .negotiationFailed).code = 0x03 ∧
  (HostResult.initErr .probeFailed).code = 0x04 ∧ (∀ t, (HostResult.readErr (.cardRejected t)).code = 0x10) ∧
  (HostResult.readErr .timeout).code = 0x11 ∧
  (∀ (r : HostResult) (t : Byte), r.payload = some t ↔ r = .readErr (.cardRejected t))

/-! ### The command frames -/

/-- R107: GO_IDLE_STATE, where FRAME was called, sends 40 00 00 00 00 95; READ_R1's first poll is next. That READ_R1 is
next at every site is R138 (the spec's decision D6), and at a site that never sends CMD0 the model's reading (log entry
11); that the bytes received change nothing is the spec's decision D26 (R100, R106). -/
def Obligations.Cmd0SendsFrame : Prop :=
  ∀ (s : State) (c : Site), s.ctl = .frame c .csLow →
    exec .cmd0 s = .next (enterReadR1 c (sentFrame s ⟨0x40, 0x00, 0x00, 0x00, 0x00, 0x95⟩))

/-- R108: SEND_IF_COND, where FRAME was called, sends 48 00 00 01 AA 87; READ_R1's first poll is next. That READ_R1 is
next at every site is R138 (the spec's decision D6), and at a site that never sends CMD8 the model's reading (log entry
11); that the bytes received change nothing is the spec's decision D26 (R100, R106). -/
def Obligations.Cmd8SendsFrame : Prop :=
  ∀ (s : State) (c : Site), s.ctl = .frame c .csLow →
    exec .cmd8 s = .next (enterReadR1 c (sentFrame s ⟨0x48, 0x00, 0x00, 0x01, 0xAA, 0x87⟩))

/-- R109: READ_SECTOR's frame, where FRAME was called, is 51, the wire argument big-endian, and the computed checksum
byte; READ_R1's first poll is next. That READ_R1 is next at every site is R138 (the spec's decision D6), and at a site
that never sends CMD17 the model's reading (log entry 11); that the bytes received change nothing is the spec's decision
D26 (R100, R106). -/
def Obligations.Cmd17SendsFrame : Prop :=
  ∀ (s : State) (c : Site) (warg : U32), s.ctl = .frame c .csLow →
    let a3 := warg.extractLsb' 24 8; let a2 := warg.extractLsb' 16 8
    let a1 := warg.extractLsb' 8 8; let a0 := warg.extractLsb' 0 8
    exec (.cmd17 warg) s = .next (enterReadR1 c (sentFrame s
      ⟨0x51, a3, a2, a1, a0, ((Config.crc7 [0x51, a3, a2, a1, a0]).setWidth 8 <<< 1) ||| 0x01⟩))

/-- R110: the application-command marker, where FRAME was called, sends 77 00 00 00 00 and the computed checksum byte.
That READ_R1 is next at every site is R138 (the spec's decision D6), and at a site that never sends CMD55 the model's
reading (log entry 11); that the bytes received change nothing is the spec's decision D26 (R100, R106). -/
def Obligations.Cmd55SendsFrame : Prop :=
  ∀ (s : State) (c : Site), s.ctl = .frame c .csLow →
    exec .cmd55 s = .next (enterReadR1 c (sentFrame s
      ⟨0x77, 0, 0, 0, 0, ((Config.crc7 [0x77, 0, 0, 0, 0]).setWidth 8 <<< 1) ||| 0x01⟩))

/-- R111: ACMD41, where FRAME was called, sends 69 40 00 00 00 and the computed checksum byte; READ_R1's first poll is
next. The other bits of the argument are zero by the spec's decision D7. That READ_R1 is next at every site is R138
(D6), and at a site that never sends ACMD41 the model's reading (log entry 11); that the bytes received change nothing
is the spec's decision D26 (R100, R106). -/
def Obligations.Acmd41SendsFrame : Prop :=
  ∀ (s : State) (c : Site), s.ctl = .frame c .csLow →
    exec .acmd41 s = .next (enterReadR1 c (sentFrame s
      ⟨0x69, 0x40, 0, 0, 0, ((Config.crc7 [0x69, 0x40, 0, 0, 0]).setWidth 8 <<< 1) ||| 0x01⟩))

/-- R112, R113, R114: where FRAME was called the generic form sends a frame for any index and any argument; the checksum
byte is 0x95 for index 0 and 0x87 for index 8 whatever the argument, and computed for every other index. That READ_R1 is
next is R138 (the spec's decision D6), and for a pair the engine does not send the model's reading (log entry 11); that
the bytes received change nothing is the spec's decision D26 (R100, R106). -/
def Obligations.CmdNSendsFrame : Prop :=
  ∀ (s : State) (c : Site) (n : Index) (arg : U32), s.ctl = .frame c .csLow →
    let b0 : Byte := 0x40#8 ||| n.setWidth 8
    let a3 := arg.extractLsb' 24 8; let a2 := arg.extractLsb' 16 8
    let a1 := arg.extractLsb' 8 8; let a0 := arg.extractLsb' 0 8
    ∃ k : Byte, (n = 0 → k = 0x95) ∧ (n = 8 → k = 0x87) ∧
      (n ≠ 0 → n ≠ 8 → k = ((Config.crc7 [b0, a3, a2, a1, a0]).setWidth 8 <<< 1) ||| 0x01) ∧
      exec (.cmdN n arg) s = .next (enterReadR1 c (sentFrame s ⟨b0, a3, a2, a1, a0, k⟩))

/-- The framer used alone (R112), in any state but FAULT where no FRAME was called: each of the six command instructions
sends the six bytes of its encoding in one bracket and leaves control as it is; the register `frame` holds them after it
in a busy engine, and no value in an idle one (R28). The model's reading (log entries 11 and 14). -/
def Obligations.FramerAloneSendsFrame : Prop :=
  ∀ (i : Instr) (s : State), i.stream = .frame → s.ctl ≠ .fault → (∀ c, s.ctl ≠ .frame c .csLow) →
    ∃ f : Frame, [f.b0, f.b1, f.b2, f.b3, f.b4, f.b5] = encode i ∧
      (s.ctl ≠ .idle → exec i s = .next (sentFrame s f)) ∧
      (s.ctl = .idle → exec i s = .next { sentFrame s f with w := { s.w with frame := none } })

/-- The frame of the six command instructions: of the state, only chip-select, the trace, the card's bytes, the
registers `frame` and `poll` and the control state may change; every byte of every buffer reads as before (R100, R106).
-/
def Obligations.CommandsLeaveRestUnchanged : Prop :=
  ∀ (i : Instr) (s t : State), i.stream = .frame → exec i s = .next t →
    t.mode = s.mode ∧ t.pwr = s.pwr ∧ t.fault = s.fault ∧ t.port = s.port ∧ t.completions = s.completions ∧
    t.w = { s.w with frame := t.w.frame, poll := t.w.poll } ∧ (∀ b k, bufRead b k t = bufRead b k s)

/-- R76, R77: at a FRAME call of a legal state the instruction is one of the five the engine emits, by its site. CMD55's
place and ACMD41's argument are the spec's decisions D6 and D7. -/
def Obligations.EngineEmitsFiveCommands : Prop :=
  ∀ (s : State) (c : Site), Inv s → s.ctl = .frame c .csLow →
    match c with
    | .goIdle => step s = exec .cmd0 s
    | .ifCond => step s = exec .cmd8 s
    | .app55 => step s = exec .cmd55 s
    | .acmd41 => step s = exec .acmd41 s
    | .block _ => ∃ x warg, s.w.sector = some x ∧ wireArg s.mode x = .ok warg ∧ step s = exec (.cmd17 warg) s

/-- R77: ACMD41 is framed only directly after a CMD55 exchange: the step before was the return of its READ_R1. The
spec's decision D6. -/
def Obligations.Acmd41OnlyAfterCmd55 : Prop :=
  ∀ s t : State, step s = .next t → t.ctl = .frame .acmd41 .csLow → s.ctl ≠ .frame .acmd41 .csLow →
    ∃ p, s.ctl = .r1 .app55 p

/-! ### The host requests -/

/-- R150, R151: the idle engine accepts INIT: INIT_BUSY at the first position of POWER_CYCLE, Mode NONE, no event; and
R190, R28, READ_SECTOR: READ_BUSY at the Mode check, the registers `sector` and `buf` taken from the request and no
other holding a value, no event. R151 is the spec's inference; a request's form is its decision D2 and log entry 6. -/
def Obligations.RequestsAreAccepted : Prop :=
  ∀ s : State, s.ctl = .idle →
    (exec .init s = .next { s with mode := .none, w := Work.empty, ctl := .power .pwrOff } ∧
      Ctl.top (.power .pwrOff) = .initBusy) ∧
    ∀ sector buf : U32,
      exec (.readSector sector buf) s = .next { s with
        w := { Work.empty with sector := some sector, buf := some (.caller buf) }, ctl := .block .host .check } ∧
      Ctl.top (.block .host .check) = .readBusy

/-- What the request port does not accept: a request while the engine is busy (R37, I8), and an op code other than 0x01
and 0x02 (R84, I9). The spec's decisions D2 and D14; the refusals' names are log entry 17. -/
def Obligations.OtherRequestsAreRefused : Prop :=
  (∀ (s : State) (sector buf : U32), s.ctl ≠ .idle → s.ctl ≠ .fault →
    exec .init s = .refused .portBusy ∧ exec (.readSector sector buf) s = .refused .portBusy) ∧
  ∀ (s : State) (op : Byte) (rest : List Byte), s.ctl = .idle → s.port = op :: rest → op ≠ 0x01 → op ≠ 0x02 →
    step s = .refused (.unknownOpcode op)

/-! ### FAULT -/

/-- R240, R230, R38: from FAULT no step is enabled and no instruction runs; the outcome carries the mark. A step enters
FAULT by a model fault alone: NOT_READY with Mode NONE, SDSC_ARG_OVERFLOW in SDSC with a sector of 2^23 or more, or the
read of a working register that holds no value (R28); the request is over with no result, no working register holds a
value, and Mode and every byte of every buffer are as before. The spec's decisions D12, D13 and D29. The third mark's
name is the model's (log entry 26), the registers cleared log entries 14 and 24. -/
def Obligations.FaultIsEnteredByModelFaultAndNeverLeft : Prop :=
  (∀ s : State, s.ctl = .fault →
    step s = .fault (.halted s.fault) ∧ ∀ i, exec i s = .fault (.halted s.fault)) ∧
  ∀ s t : State, step s = .next t → t.ctl = .fault →
    t.w = Work.empty ∧ t.completions = s.completions ∧ t.mode = s.mode ∧ (∀ b k, bufRead b k t = bufRead b k s) ∧
    ((t.fault = some .notReady ∧ s.mode = .none) ∨
      (t.fault = some .sdscArgOverflow ∧ s.mode = .sdsc ∧ ∃ x, s.w.sector = some x ∧ 2 ^ 23 ≤ x.toNat) ∨
      ∃ r, t.fault = some (.unwrittenRegister r) ∧ s.ctl.reads r = true ∧ s.w.holds r = false)

/-! ### The received bytes -/

/-- R130, R131, R134: a poll before the last answered by a byte with bit 7 set: the poll's three events, `tok`, and the
next poll. One bracket per poll is the spec's decision D3. -/
def Obligations.NotArrivedPollsAgain : Prop :=
  ∀ (s : State) (c : Site) (b : BitVec 7) (k : Poll), s.ctl = .r1 c .pollCsLow → s.w.poll = some k → k.toNat < 100 →
    exec (.rxR1NotArrived b) s =
      .next { polled s (1#1 ++ b) with w := { s.w with tok := some (1#1 ++ b), poll := some (k + 1) } }

/-- R132, R133, R134: what READ_R1 returns to its caller, and after which exchanges: a status token after its poll;
after the vendor byte the byte of one extra exchange, unchecked, whatever the poll's number; at poll 100 a byte with bit
7 set. One bracket per exchange is the spec's decision D3, and R133 its inference from R130. -/
def Obligations.ReadR1Returns : Prop :=
  ∀ (s : State) (c : Site), s.ctl = .r1 c .pollCsLow →
    (∀ f : BitVec 7, f ≠ 0x1F → exec (.rxR1Token f) s = r1Return c (0#1 ++ f) (polled s (0#1 ++ f))) ∧
    (exec .rxR1Vendor s = r1Return c (drawn s 1) (polled (polled s 0x1F) (drawn s 1))) ∧
    (∀ b : BitVec 7, s.w.poll = some 100 →
      exec (.rxR1NotArrived b) s = r1Return c (1#1 ++ b) (polled s (1#1 ++ b)))

/-- The three Response Reader classes run to a next state at every site whose caller's registers hold what its loop
writes: the exchanges' events, chip-select high, and the byte returned in `tok` unless the request has ended. The spec's
decisions D3 and D6. -/
def Obligations.ReadR1ClassesComplete : Prop :=
  ∀ (s : State) (c : Site), s.ctl = .r1 c .pollCsLow → c.regs s.w → s.w.pollIn 100 →
    (∀ f : BitVec 7, f ≠ 0x1F → ∃ t, exec (.rxR1Token f) s = .next t ∧ t.cs = .high ∧
      t.trace = s.trace ++ pollEvents (0#1 ++ f) ∧ (t.w.tok = some (0#1 ++ f) ∨ t.ctl = .idle)) ∧
    (∃ t, exec .rxR1Vendor s = .next t ∧ t.cs = .high ∧
      t.trace = s.trace ++ pollEvents 0x1F ++ pollEvents (drawn s 1) ∧
      (t.w.tok = some (drawn s 1) ∨ t.ctl = .idle)) ∧
    (∀ b : BitVec 7, ∃ t, exec (.rxR1NotArrived b) s = .next t ∧ t.cs = .high ∧
      t.trace = s.trace ++ pollEvents (1#1 ++ b) ∧ (t.w.tok = some (1#1 ++ b) ∨ t.ctl = .idle))

/-- The frame of the Response Reader classes: Mode stays, but for a failed trial read's NONE; power, the port and every
byte of every buffer stay. While the request runs the fault mark stays and of the registers only `tok`, `poll`,
`attempt`, `idx` and `arg` may change; its end delivers one result; and a register that holds no value, read on the way,
ends it by the model fault of R28 with no result (log entry 26). The spec's decision D3 and its inferences R196 and
R237. -/
def Obligations.ReadR1ClassesLeaveRestUnchanged : Prop :=
  ∀ (i : Instr) (s t : State), i.stream = .r1 → exec i s = .next t →
    (t.mode = s.mode ∨ (s.ctl = .r1 (.block .probe) .pollCsLow ∧ t.mode = .none)) ∧
    t.pwr = s.pwr ∧ t.port = s.port ∧ (∀ b k, bufRead b k t = bufRead b k s) ∧
    ((t.ctl ≠ .idle ∧ t.ctl ≠ .fault ∧ t.fault = s.fault ∧ t.completions = s.completions ∧ t.w = { s.w with
        tok := t.w.tok, poll := t.w.poll, attempt := t.w.attempt, idx := t.w.idx, arg := t.w.arg }) ∨
      (t.ctl = .idle ∧ t.fault = s.fault ∧ t.w = Work.empty ∧ ∃ r, t.completions = s.completions ++ [r]) ∨
      (t.ctl = .fault ∧ t.w = Work.empty ∧ t.completions = s.completions ∧
        ∃ r, t.fault = some (.unwrittenRegister r) ∧ s.w.holds r = false))

/-- R198, R199: a token poll answered by 0xFE: the exchange, and the data stream starts at offset 0; answered by any
other byte: the exchange, and the next poll, or after poll 10,000 the end of the data phase; nothing else changes. The
spec's decision D11. With no value in `poll` the read of it is the model fault of R28 (the spec's decision D29; its mark
is log entry 26). -/
def Obligations.TokenPollAnswer : Prop :=
  ∀ (s : State) (o : Owner), s.ctl = .block o .tokenPoll →
    (exec .rxDataToken s = .next { s with
      trace := s.trace ++ [.xfer 0xFF 0xFE], card := s.card.tail, draws := s.draws + 1
      w := { s.w with i := some 0 }, ctl := .block o .data }) ∧
    (∀ (b : Byte) (p : Poll), s.w.poll = some p → b ≠ 0xFE → p.toNat < 10000 → exec (.rxDataBusy b) s = .next { s with
      trace := s.trace ++ [.xfer 0xFF b], card := s.card.tail, draws := s.draws + 1
      w := { s.w with poll := some (p + 1) } }) ∧
    (∀ b : Byte, s.w.poll = some 10000 → b ≠ 0xFE → exec (.rxDataBusy b) s = .next { s with
      trace := s.trace ++ [.xfer 0xFF b], card := s.card.tail, draws := s.draws + 1
      ctl := .block o (.dataCsHigh false) }) ∧
    (∀ b : Byte, s.w.poll = none → b ≠ 0xFE → exec (.rxDataBusy b) s = .next { s with
      trace := s.trace ++ [.xfer 0xFF b], card := s.card.tail, draws := s.draws + 1
      ctl := .fault, fault := some (.unwrittenRegister .poll), w := Work.empty })

/-- Where no poll of its kind is about to be made a received-byte class is refused: no byte is received there (the
model's choice, log entry 16). -/
def Obligations.ReceivedByteOutsidePollIsRefused : Prop :=
  ∀ (s : State) (i : Instr), s.ctl ≠ .fault →
    ((∀ c, s.ctl ≠ .r1 c .pollCsLow) → i.stream = .r1 → exec i s = .refused .noPoll) ∧
    ((∀ o, s.ctl ≠ .block o .tokenPoll) → i.stream = .data → exec i s = .refused .noPoll)

/-! ### The bring-up -/

/-- R155, R156, R157: the answer to CMD0: success on 0x01 alone, else the next attempt at once, and GoIdleFailed after
attempt 100. R156 is the spec's inference from R155. -/
def Obligations.GoIdleAnswer : Prop :=
  ∀ (u : State) (r : Byte) (n : Attempt), u.w.attempt = some n →
    (r = 0x01 → r1Return .goIdle r u = .next { u with
      ctl := .frame .ifCond .csLow, w := { u.w with attempt := some 1, idx := some 8, arg := some 0x1AA } }) ∧
    (r ≠ 0x01 → n.toNat < 100 → r1Return .goIdle r u = .next { u with
      ctl := .frame .goIdle .csLow, w := { u.w with attempt := some (n + 1), idx := some 0, arg := some 0 } }) ∧
    (r ≠ 0x01 → n = 100 → r1Return .goIdle r u = .next { u with
      ctl := .idle, w := Work.empty, completions := u.completions ++ [.initErr .goIdleFailed] })

/-- R158, R159: the answer to CMD8: success on 0x01 alone, else the delay before the next attempt, and UnsupportedCard
after attempt 100. The delay's place is the spec's decision D5. -/
def Obligations.CheckInterfaceAnswer : Prop :=
  ∀ (u : State) (r : Byte) (n : Attempt), u.w.attempt = some n →
    (r = 0x01 → r1Return .ifCond r u = .next { u with
      ctl := .frame .app55 .csLow, w := { u.w with attempt := some 1, idx := some 55, arg := some 0 } }) ∧
    (r ≠ 0x01 → n.toNat < 100 → r1Return .ifCond r u = .next { u with ctl := .delay .ifCond }) ∧
    (r ≠ 0x01 → n = 100 → r1Return .ifCond r u = .next { u with
      ctl := .idle, w := Work.empty, completions := u.completions ++ [.initErr .unsupportedCard] })

/-- R161 to R164: CMD55's answer is discarded and ACMD41 follows; ACMD41's is success on 0x00 alone, else the delay
before the next attempt, and NegotiationFailed after attempt 1000. That CMD55's answer is read and discarded is the
spec's decision D6, the delay's place D5. -/
def Obligations.NegotiateCapacityAnswer : Prop :=
  (∀ (u : State) (r : Byte), r1Return .app55 r u = .next { u with
    ctl := .frame .acmd41 .csLow, w := { u.w with idx := some 41, arg := some 0x40000000 } }) ∧
  ∀ (u : State) (r : Byte) (n : Attempt), u.w.attempt = some n →
    (r = 0x00 → r1Return .acmd41 r u = .next { u with ctl := .setMode }) ∧
    (r ≠ 0x00 → n.toNat < 1000 → r1Return .acmd41 r u = .next { u with ctl := .delay .negotiate }) ∧
    (r ≠ 0x00 → n = 1000 → r1Return .acmd41 r u = .next { u with
      ctl := .idle, w := Work.empty, completions := u.completions ++ [.initErr .negotiationFailed] })

/-- R196, R168, R237: CMD17's answer: the data phase on 0x00 alone; any other byte is CardRejected with that byte to the
host, and to ProbeMode Mode NONE and ProbeFailed. R196 and R237 are the spec's inferences. -/
def Obligations.BlockReadAnswer : Prop :=
  ∀ (u : State) (r : Byte),
    (∀ o, r = 0x00 → r1Return (.block o) r u = .next { u with ctl := .block o .dataCsLow }) ∧
    (r ≠ 0x00 → r1Return (.block .host) r u = .next { u with
      ctl := .idle, w := Work.empty, completions := u.completions ++ [.readErr (.cardRejected r)] }) ∧
    (r ≠ 0x00 → r1Return (.block .probe) r u = .next { u with
      mode := .none, ctl := .idle, w := Work.empty, completions := u.completions ++ [.initErr .probeFailed] })

/-- R153, R154: POWER_CYCLE is 16 steps, each one event: power off, delay, power on, delay, and ten idle bytes in one
bracket; then GO_IDLE's first attempt. The spec's decisions D8 and D9. -/
def Obligations.PowerCycleRuns : Prop :=
  ∀ s : State, s.ctl = .power .pwrOff → runSteps 16 s = .next { s with
    pwr := true, cs := .high, card := s.card.drop 10, draws := s.draws + 10
    ctl := .frame .goIdle .csLow, w := { s.w with attempt := some 1, idx := some 0, arg := some 0 }
    trace := s.trace ++ [.power false, .delay Config.tPwrOffUs, .power true, .delay Config.tPwrOnUs, .cs .low] ++
      (List.range 10).map (fun k => .xfer 0xFF (drawn s k)) ++ [.cs .high] }

/-- R160: the retry delay is one event of 10,000 microseconds, after which the next attempt's frame is called. The
spec's decision D5. -/
def Obligations.RetryDelayThenNextAttempt : Prop :=
  ∀ (s : State) (n : Attempt), s.w.attempt = some n →
    (s.ctl = .delay .ifCond → step s = .next { s with
      trace := s.trace ++ [.delay 10000], ctl := .frame .ifCond .csLow
      w := { s.w with attempt := some (n + 1), idx := some 8, arg := some 0x1AA } }) ∧
    (s.ctl = .delay .negotiate → step s = .next { s with
      trace := s.trace ++ [.delay 10000], ctl := .frame .app55 .csLow
      w := { s.w with attempt := some (n + 1), idx := some 55, arg := some 0 } })

/-- R165, R166, R167: ProbeMode fixes SDHC and then reads sector 1 into the scratch buffer, with no event before. R166
is the spec's inference, R167 its decision D32. -/
def Obligations.ProbeModeFixesSdhc : Prop :=
  ∀ s : State, s.ctl = .setMode → step s = .next { s with
    mode := .sdhc, ctl := .block .probe .check, w := { s.w with sector := some 1, buf := some .scratch } }

/-! ### The block read -/

/-- R191, R240: with Mode NONE a block read raises NOT_READY before any event and any write; otherwise it goes on. The
spec's decision D13. That no working register holds a value after the request's end is R28 (log entries 14 and 24). -/
def Obligations.NoneModeRaisesNotReady : Prop :=
  ∀ (s : State) (o : Owner), s.ctl = .block o .check →
    (s.mode = .none → step s = .next { s with ctl := .fault, fault := some .notReady, w := Work.empty }) ∧
    (s.mode ≠ .none → step s = .next { s with ctl := .block o .zero })

/-- R192, R53: the zero-fill is one step with no event; all 512 bytes of the buffer read 0x00 after it, and every byte
of every other buffer reads as before. The spec's decision D19. Buffers do not overlap: log entry 6. -/
def Obligations.ZeroFillClearsBuffer : Prop :=
  ∀ (s : State) (o : Owner) (b : Buf), s.ctl = .block o .zero → s.w.buf = some b →
    ∃ t, step s = .next t ∧ (∀ k, k < 512 → bufRead b k t = some 0x00) ∧
      (∀ b' k, b' ≠ b → k < 512 → bufRead b' k t = bufRead b' k s) ∧
      t = { s with ctl := .block o .arg, mem := t.mem, scratch := t.scratch }

/-- R193, R194: the wire argument: the sector itself in SDHC; times 512, exactly, in SDSC below 2^23; and at or above it
the fault SDSC_ARG_OVERFLOW with no event. The overflow fault is the spec's decision D12. That no working register holds
a value after the request's end is R28 (log entries 14 and 24). -/
def Obligations.WireArgumentByMode : Prop :=
  ∀ (s : State) (o : Owner) (x : U32), s.ctl = .block o .arg → s.w.sector = some x →
    (s.mode = .sdhc → step s = .next { s with
      ctl := .frame (.block o) .csLow, w := { s.w with idx := some 17, arg := some x } }) ∧
    (s.mode = .sdsc → x.toNat < 2 ^ 23 → ∃ warg : U32, warg.toNat = x.toNat * 512 ∧ step s = .next { s with
      ctl := .frame (.block o) .csLow, w := { s.w with idx := some 17, arg := some warg } }) ∧
    (s.mode = .sdsc → 2 ^ 23 ≤ x.toNat →
      step s = .next { s with ctl := .fault, fault := some .sdscArgOverflow, w := Work.empty })

/-- R52, R200: a data exchange puts the byte received at its offset of the buffer, whatever it is, and nothing anywhere
else. The spec's decision D18. Buffers do not overlap: log entry 6. -/
def Obligations.DataByteGoesToItsOffset : Prop :=
  ∀ (s : State) (o : Owner) (b : Buf) (i : StreamIndex), s.ctl = .block o .data → s.w.buf = some b → s.w.i = some i →
    i.toNat < 512 →
    ∃ t, step s = .next t ∧ bufRead b i.toNat t = some (drawn s 0) ∧
      (∀ b' k, k < 512 → (b' ≠ b ∨ k ≠ i.toNat) → bufRead b' k t = bufRead b' k s) ∧
      t = { exchanged s 0xFF with
        ctl := .block o (if i = 511 then .crc else .data), w := { s.w with i := some (i + 1) }
        mem := t.mem, scratch := t.scratch }

/-- R52, R200: the 512 data exchanges put the k-th byte received at offset k, for every k, and end at the checksum
bytes; every byte of every other buffer reads as before, and nothing else changes. The spec's decision D18. Buffers do
not overlap: log entry 6. -/
def Obligations.DataStreamFillsBuffer : Prop :=
  ∀ (s : State) (o : Owner) (b : Buf), s.ctl = .block o .data → s.w.buf = some b → s.w.i = some 0 →
    ∃ t, runSteps 512 s = .next t ∧ (∀ k, k < 512 → bufRead b k t = some (drawn s k)) ∧
      (∀ b' k, b' ≠ b → k < 512 → bufRead b' k t = bufRead b' k s) ∧
      t = { s with
        trace := s.trace ++ (List.range 512).map (fun k => .xfer 0xFF (drawn s k)), card := s.card.drop 512
        draws := s.draws + 512, ctl := .block o .crc, w := { s.w with i := some 512 }, mem := t.mem, scratch := t.scratch }

/-- R201, R202: two exchanges whose bytes are discarded, chip-select high, and the result Ok; no byte of a buffer is
written. The trial read's Ok is INIT's (R171). That 0xFF is sent in the data phase is the spec's decision D4 (R82); that
the checksum bytes begin at index 512, that the registers hold no value after the end, and that this is three steps are
the model's (log entries 20, 14 and 13). -/
def Obligations.ChecksumBytesThenOk : Prop :=
  ∀ (s : State) (o : Owner), s.ctl = .block o .crc → s.w.i = some 512 →
    runSteps 3 s = .next { s with
      trace := s.trace ++ [.xfer 0xFF (drawn s 0), .xfer 0xFF (drawn s 1), .cs .high], cs := .high
      card := s.card.drop 2, draws := s.draws + 2, ctl := .idle, w := Work.empty
      completions := s.completions ++ [.ok] }

/-- R199, R168: the end of a data phase with no token: chip-select high, and Timeout to the host, Mode NONE and
ProbeFailed in the trial read. The closing of the bracket is the spec's decision D10. -/
def Obligations.NoTokenIsTimeout : Prop :=
  ∀ s : State,
    (s.ctl = .block .host (.dataCsHigh false) → step s = .next { s with
      trace := s.trace ++ [.cs .high], cs := .high, ctl := .idle, w := Work.empty
      completions := s.completions ++ [.readErr .timeout] }) ∧
    (s.ctl = .block .probe (.dataCsHigh false) → step s = .next { s with
      trace := s.trace ++ [.cs .high], cs := .high, ctl := .idle, w := Work.empty, mode := .none
      completions := s.completions ++ [.initErr .probeFailed] })

/-! ### Rules of the whole machine -/

/-- R22, R23, R170, R203: only three steps write Mode: an accepted INIT (NONE), ProbeMode's first (SDHC), and a failed
trial read's end (NONE); so no step writes SDSC, and none of a READ_SECTOR request writes Mode at all. R23 and R170 are
the spec's inferences. -/
def Obligations.ModeHasThreeWriters : Prop :=
  ∀ s t : State, step s = .next t →
    (s.mode ≠ .sdsc → t.mode ≠ .sdsc) ∧ (s.ctl.top = .readBusy → t.mode = s.mode) ∧
    (t.mode = s.mode ∨
      (s.ctl = .idle ∧ t.ctl = .power .pwrOff ∧ t.mode = .none) ∨
      (s.ctl = .setMode ∧ t.mode = .sdhc) ∨
      (s.ctl.reading = some .probe ∧ t.ctl = .idle ∧ t.mode = .none ∧
        t.completions = s.completions ++ [.initErr .probeFailed]))

/-- R25: only POWER_CYCLE's two power positions write card power, and the second leaves it on. R25 carries the spec's
decision D15. -/
def Obligations.PowerHasOneWriter : Prop :=
  ∀ s t : State, step s = .next t → t.pwr ≠ s.pwr →
    (s.ctl = .power .pwrOff ∧ t.pwr = false) ∨ (s.ctl = .power .pwrOn ∧ t.pwr = true)

/-- R15, R36: a step adds at most eight events at the end of the trace and changes none before. The trace is the spec's
decision D1; that a step is a whole frame, of eight events, or less is the model's granularity (log entry 13): R15 and
R36 give one event to each primitive. -/
def Obligations.TraceOnlyGrows : Prop :=
  ∀ s t : State, step s = .next t → ∃ es, t.trace = s.trace ++ es ∧ es.length ≤ 8

/-- R50, R64, R190: only the zero-fill and the data stream write a buffer, and only the buffer of the request, at
offsets 0 to 511. The spec's decision D19. Buffers do not overlap: log entry 6. -/
def Obligations.OnlyTheRequestsBufferIsWritten : Prop :=
  ∀ (s t : State) (b : Buf) (k : Nat), step s = .next t → k < 512 → bufRead b k t ≠ bufRead b k s →
    s.w.buf = some b ∧ ∃ o, s.ctl = .block o .zero ∨ s.ctl = .block o .data

/-- R29, R50: no step reads a buffer: two states that differ in the buffers' contents alone have outcomes that differ in
the buffers' contents alone. The spec's decision D20, and R63 its inference. -/
def Obligations.BuffersAreNeverRead : Prop :=
  ∀ s t : State, s.blind = t.blind → blindOut (step s) = blindOut (step t)

/-- R38, R230: a step delivers a result exactly when it ends a request, and then exactly one. The spec's decisions D2
and D13. -/
def Obligations.OneResultPerRequest : Prop :=
  ∀ s t : State, step s = .next t →
    (s.ctl ≠ .idle ∧ t.ctl = .idle ∧ ∃ r, t.completions = s.completions ++ [r]) ∨
    ((s.ctl = .idle ∨ t.ctl ≠ .idle) ∧ t.completions = s.completions)

/-- R16, R27: a step from a busy engine is the execution of one to eight positions, each with at most one primitive: the
trace and the state it leaves are the same either way. The steps are the model's (log entry 13). -/
def Obligations.StepIsPositionsInSequence : Prop :=
  ∀ s : State, s.ctl ≠ .idle → ∃ n, 1 ≤ n ∧ n ≤ 8 ∧ runPositions n s = step s

/-- R130, R136: polls answered by bytes with bit 7 set, up to 99 of them, are three events each and lead to the poll
after them. The spec's decision D3, and R136 its inference. That a poll is one step is the model's granularity (log
entry 13). -/
def Obligations.UnansweredPollsRun : Prop :=
  ∀ (s : State) (c : Site) (j : Nat), s.ctl = .r1 c .pollCsLow → s.w.poll = some 1 → j ≤ 99 →
    (∀ m, m < j → (drawn s m).getLsbD 7 = true) →
    ∃ t, runSteps j s = .next t ∧ t.ctl = .r1 c .pollCsLow ∧ t.w.poll = some (BitVec.ofNat 14 (j + 1)) ∧
      t.trace = s.trace ++ (List.range j).flatMap (fun m => pollEvents (drawn s m)) ∧
      (∀ n, drawn t n = drawn s (j + n)) ∧ t.trace.length = s.trace.length + 3 * j

/-! ### Invariants and runs -/

/-- Every step keeps the legal states: chip-select at the position's level, Mode and power what the position requires,
memory in canonical form, the fault mark set in FAULT alone, and every register a position reads written. The invariant
is the model's; R172 is the spec's inference and R24 its decision D15. -/
def Obligations.StepKeepsLegalStates : Prop :=
  ∀ s t : State, Inv s → step s = .next t → Inv t

/-- A legal state's step never stops, but in FAULT or on bytes at the port that are no request; and it never raises the
model fault of reading a working register before it is written (R28; log entry 26). The spec's decision D29. -/
def Obligations.LegalStatesNeverStop : Prop :=
  ∀ s : State, Inv s → s.ctl ≠ .fault →
    (s.ctl = .idle → s.port = [] ∨ ∃ i rest, decode .host s.port = .ok i rest) →
    ∃ t, step s = .next t ∧ ∀ r, t.fault ≠ some (.unwrittenRegister r)

/-- R60, R270: every step keeps the bracket discipline of the whole bus trace. R270 is the spec's inference; the
brackets of R131 and R197 are its decisions D3 and D10. -/
def Obligations.StepKeepsBrackets : Prop :=
  ∀ s t : State, Inv s → Bracketed s → step s = .next t → Bracketed t

/-- R174, R205, R273: each step of a running request spends of the events the request can still produce. R136, R205 and
R273 are the spec's inferences. -/
def Obligations.EventsAreBounded : Prop :=
  ∀ s t : State, Inv s → s.ctl ≠ .idle → step s = .next t →
    t.trace.length + eventsLeft t ≤ s.trace.length + eventsLeft s

/-- R230, R273: each step of a running request brings its end nearer. R273 is the spec's inference; the count of steps
is the model's (log entry 13). The premise of the claim is that every collaborator call returns, each in one step (R274,
the spec's decision D27; log entry 21). -/
def Obligations.RequestsTerminate : Prop :=
  ∀ s t : State, Inv s → s.ctl ≠ .idle → step s = .next t → stepsLeft t < stepsLeft s

/-- R150, R171, R173, R273: from a legal idle state an INIT request ends within 696,146 steps and 696,141 events, with
one result: Ok with Mode SDHC, or an InitError with Mode NONE; chip-select high and power on in each case, and no buffer
of the host changed. R173 and R273 are the spec's inferences; the count of steps is the model's (log entry 13). The
premise of the claim is that every collaborator call returns, each in one step (R274, R174, the spec's decision D27; log
entry 21). -/
def Obligations.InitEndsWithResult : Prop :=
  ∀ (s : State) (rest : List Byte), Inv s → s.ctl = .idle → s.port = 0x01 :: rest →
    ∃ n t, n ≤ 696146 ∧ runSteps n s = .next t ∧ t.ctl = .idle ∧ t.port = rest ∧ t.cs = .high ∧ t.pwr = true ∧
      t.mem = s.mem ∧ (∃ es, t.trace = s.trace ++ es ∧ es.length ≤ 696141) ∧
      ((t.mode = .sdhc ∧ t.completions = s.completions ++ [.ok]) ∨
        (t.mode = .none ∧ ∃ e, t.completions = s.completions ++ [.initErr e]))

/-- R65, R203, R273: from a legal idle state with Mode SDHC a READ_SECTOR request ends within 10,831 steps and 10,827
events, with one result; Mode is as before; after an error all 512 bytes of the buffer are 0x00, and after Ok they are
the 512 bytes received after a data token, in order; every byte of every other buffer is as before. R65, R205 and R273
are the spec's inferences; the steps and the separate buffers are the model's (log entries 13 and 6). The premise of the
claim is that every collaborator call returns, each in one step (R274, the spec's decision D27; log entry 21). -/
def Obligations.ReadSectorEndsWithResult : Prop :=
  ∀ (s : State) (sector buf : U32) (rest : List Byte), Inv s → s.ctl = .idle → s.mode = .sdhc →
    s.port = encode (.readSector sector buf) ++ rest →
    ∃ n t r, n ≤ 10831 ∧ runSteps n s = .next t ∧ t.ctl = .idle ∧ t.port = rest ∧ t.cs = .high ∧ t.mode = .sdhc ∧
      (∃ es, t.trace = s.trace ++ es ∧ es.length ≤ 10827) ∧ t.completions = s.completions ++ [r] ∧
      (r = .ok ∨ r = .readErr .timeout ∨ ∃ tok, tok ≠ 0x00 ∧ r = .readErr (.cardRejected tok)) ∧
      (r ≠ .ok → ∀ k, k < 512 → bufRead (.caller buf) k t = some 0x00) ∧
      (r = .ok → ∃ m, drawn s m = 0xFE ∧ ∀ k, k < 512 → bufRead (.caller buf) k t = some (drawn s (m + 1 + k))) ∧
      (∀ h k, h ≠ buf → k < 512 → bufRead (.caller h) k t = bufRead (.caller h) k s)

/-- R207, R65, R205: a READ_SECTOR request in SDHC to a card that answers CMD17 with 0x00, then fewer than 10,000 busy
bytes, 0xFE, 512 data bytes and two checksum bytes ends with Ok and the data in the buffer in order, after 8 + 3 + 1 + p
+ 514 + 1 events, the token being at poll p. R65 and R205 are the spec's inferences; the card's bytes stand in the state
(log entry 4). The premise of the claim is that every collaborator call returns, each in one step (R274, the spec's
decision D27; log entry 21). -/
def Obligations.ReadSectorReturnsData : Prop :=
  ∀ (s : State) (sector buf : U32) (rest junk busy data crc more : List Byte),
    s.ctl = .idle → s.mode = .sdhc → s.port = encode (.readSector sector buf) ++ rest →
    s.card = junk ++ [0x00] ++ busy ++ [0xFE] ++ data ++ crc ++ more → junk.length = 6 → busy.length < 10000 →
    (0xFE : Byte) ∉ busy → data.length = 512 → crc.length = 2 →
    ∃ n t, runSteps n s = .next t ∧ t.ctl = .idle ∧ t.port = rest ∧ t.mode = .sdhc ∧ t.card = more ∧
      t.completions = s.completions ++ [.ok] ∧ (∀ k, k < 512 → bufRead (.caller buf) k t = data[k]?) ∧
      t.trace.length = s.trace.length + 8 + 3 + 1 + (busy.length + 1) + 514 + 1
end

