-- ==== Sys2Proof/Laws/Mem.lean ====
section
/-! SUPPORT. The laws of memory: a byte written is the byte read, every other byte stays, and every operation keeps the
canonical form. -/

namespace Sys2Proof.Machine

theorem Mem.read_write (m : List Host.Cell) (a k : Nat) (b : Byte) :
    Mem.read (Mem.write m a b) k = if k = a then some b else Mem.read m k := by
  induction m with
  | nil => simp only [Mem.write, Mem.read, eq_comm]
  | cons c m ih =>
    simp only [Mem.write]
    split
    · simp only [Mem.read, eq_comm]
    · split
      · next h => subst h; simp only [Mem.read]; split <;> simp_all [eq_comm]
      · next h => simp only [Mem.read, ih]; split <;> split <;> simp_all

@[simp] theorem Mem.read_write_self (m : List Host.Cell) (a : Nat) (b : Byte) :
    Mem.read (Mem.write m a b) a = some b := by simp [Mem.read_write]

theorem Mem.read_write_other {m : List Host.Cell} {a k : Nat} {b : Byte} (h : k ≠ a) :
    Mem.read (Mem.write m a b) k = Mem.read m k := by simp [Mem.read_write, h]

/-- What a fill leaves at every address. -/
theorem Mem.read_fill (m : List Host.Cell) (a n k : Nat) (v : Byte) :
    Mem.read (Mem.fill m a n v) k = if a ≤ k ∧ k < a + n then some v else Mem.read m k := by
  induction n with
  | zero => simp [Mem.fill]
  | succ n ih =>
    simp only [Mem.fill, Mem.read_write, ih]
    by_cases h : k = a + n
    · simp [h]
    · have : (a ≤ k ∧ k < a + (n + 1)) ↔ (a ≤ k ∧ k < a + n) := by omega
      simp [h, this]

/-- The cells of a written memory are the byte's cell and cells that were there. -/
theorem Mem.mem_write {m : List Host.Cell} {a : Nat} {b : Byte} {c : Host.Cell} (h : c ∈ Mem.write m a b) :
    c = (a, b) ∨ c ∈ m := by
  induction m with
  | nil => simpa [Mem.write] using h
  | cons d m ih =>
    simp only [Mem.write] at h
    split at h
    · simpa using h
    · split at h
      · rcases List.mem_cons.1 h with h | h
        · exact .inl h
        · exact .inr (List.mem_cons_of_mem _ h)
      · rcases List.mem_cons.1 h with h | h
        · exact .inr (by simp [h])
        · exact (ih h).imp_right (List.mem_cons_of_mem _)

theorem Mem.wf_tail {c : Host.Cell} {m : List Host.Cell} (h : Mem.wf (c :: m) = true) : Mem.wf m = true := by
  cases m with
  | nil => rfl
  | cons d m => simp only [Mem.wf, Bool.and_eq_true] at h; exact h.2

/-- The canonical form of a list with one more cell in front. -/
theorem Mem.wf_cons {c : Host.Cell} {m : List Host.Cell} (hm : Mem.wf m = true) (h : ∀ d ∈ m.head?, c.1 < d.1) :
    Mem.wf (c :: m) = true := by
  cases m with
  | nil => rfl
  | cons d m => simp [Mem.wf, hm, h d (by simp)]

/-- The first address after a write: the byte's own or the one that was first. -/
theorem Mem.head_write {m : List Host.Cell} {a : Nat} {b : Byte} :
    ∀ d ∈ (Mem.write m a b).head?, d.1 = a ∨ d ∈ m.head? := by
  cases m with
  | nil => simp [Mem.write]
  | cons c m => simp only [Mem.write]; split_ifs <;> simp

theorem Mem.wf_write {m : List Host.Cell} (a : Nat) (b : Byte) (h : Mem.wf m = true) :
    Mem.wf (Mem.write m a b) = true := by
  induction m with
  | nil => rfl
  | cons c m ih =>
    have ht := Mem.wf_tail h
    have hc : ∀ d ∈ m.head?, c.1 < d.1 := by
      cases m with
      | nil => simp
      | cons d m => simp only [Mem.wf, Bool.and_eq_true, decide_eq_true_eq] at h; simpa using h.1
    simp only [Mem.write]
    split
    · next hlt => exact Mem.wf_cons h (by simpa using hlt)
    · split
      · next heq => exact Mem.wf_cons ht (fun d hd => by simpa [heq] using hc d hd)
      · next hlt hne =>
        refine Mem.wf_cons (ih ht) fun d hd => ?_
        rcases Mem.head_write d hd with hd | hd
        · omega
        · exact hc d hd

theorem Mem.wf_fill {m : List Host.Cell} (a n : Nat) (v : Byte) (h : Mem.wf m = true) :
    Mem.wf (Mem.fill m a n v) = true := by
  induction n with
  | zero => exact h
  | succ n ih => exact Mem.wf_write _ _ ih

/-- The cells of a filled memory are cells that were there or stand in the filled range. -/
theorem Mem.mem_fill {m : List Host.Cell} {a n : Nat} {v : Byte} {c : Host.Cell} (h : c ∈ Mem.fill m a n v) :
    c ∈ m ∨ (a ≤ c.1 ∧ c.1 < a + n) := by
  induction n with
  | zero => exact .inl h
  | succ n ih =>
    rcases Mem.mem_write h with rfl | h
    · right; simp
    · rcases ih h with h | ⟨h1, h2⟩
      · exact .inl h
      · right; omega

end Sys2Proof.Machine
end

