-- ==== Sys2Proof/Laws/State.lean ====
section
/-! SUPPORT. One lemma per field per update of the state, so that no later proof unfolds a record update. -/

namespace Sys2Proof.Machine

/-! ### `emit` -/

@[simp] theorem emit_mode (e : Event) (s : State) : (emit e s).mode = s.mode := rfl
@[simp] theorem emit_cs (e : Event) (s : State) : (emit e s).cs = s.cs := rfl
@[simp] theorem emit_pwr (e : Event) (s : State) : (emit e s).pwr = s.pwr := rfl
@[simp] theorem emit_ctl (e : Event) (s : State) : (emit e s).ctl = s.ctl := rfl
@[simp] theorem emit_w (e : Event) (s : State) : (emit e s).w = s.w := rfl
@[simp] theorem emit_scratch (e : Event) (s : State) : (emit e s).scratch = s.scratch := rfl
@[simp] theorem emit_trace (e : Event) (s : State) : (emit e s).trace = s.trace ++ [e] := rfl
@[simp] theorem emit_fault (e : Event) (s : State) : (emit e s).fault = s.fault := rfl
@[simp] theorem emit_mem (e : Event) (s : State) : (emit e s).mem = s.mem := rfl
@[simp] theorem emit_port (e : Event) (s : State) : (emit e s).port = s.port := rfl
@[simp] theorem emit_completions (e : Event) (s : State) : (emit e s).completions = s.completions := rfl
@[simp] theorem emit_card (e : Event) (s : State) : (emit e s).card = s.card := rfl
@[simp] theorem emit_draws (e : Event) (s : State) : (emit e s).draws = s.draws := rfl

/-! ### `setCs` -/

@[simp] theorem setCs_mode (l : Level) (s : State) : (setCs l s).mode = s.mode := rfl
@[simp] theorem setCs_cs (l : Level) (s : State) : (setCs l s).cs = l := rfl
@[simp] theorem setCs_pwr (l : Level) (s : State) : (setCs l s).pwr = s.pwr := rfl
@[simp] theorem setCs_ctl (l : Level) (s : State) : (setCs l s).ctl = s.ctl := rfl
@[simp] theorem setCs_w (l : Level) (s : State) : (setCs l s).w = s.w := rfl
@[simp] theorem setCs_scratch (l : Level) (s : State) : (setCs l s).scratch = s.scratch := rfl
@[simp] theorem setCs_trace (l : Level) (s : State) : (setCs l s).trace = s.trace ++ [.cs l] := rfl
@[simp] theorem setCs_fault (l : Level) (s : State) : (setCs l s).fault = s.fault := rfl
@[simp] theorem setCs_mem (l : Level) (s : State) : (setCs l s).mem = s.mem := rfl
@[simp] theorem setCs_port (l : Level) (s : State) : (setCs l s).port = s.port := rfl
@[simp] theorem setCs_completions (l : Level) (s : State) : (setCs l s).completions = s.completions := rfl
@[simp] theorem setCs_card (l : Level) (s : State) : (setCs l s).card = s.card := rfl
@[simp] theorem setCs_draws (l : Level) (s : State) : (setCs l s).draws = s.draws := rfl

/-! ### `receive` -/

@[simp] theorem receive_mode (o b : Byte) (s : State) : (receive o b s).mode = s.mode := rfl
@[simp] theorem receive_cs (o b : Byte) (s : State) : (receive o b s).cs = s.cs := rfl
@[simp] theorem receive_pwr (o b : Byte) (s : State) : (receive o b s).pwr = s.pwr := rfl
@[simp] theorem receive_ctl (o b : Byte) (s : State) : (receive o b s).ctl = s.ctl := rfl
@[simp] theorem receive_w (o b : Byte) (s : State) : (receive o b s).w = s.w := rfl
@[simp] theorem receive_scratch (o b : Byte) (s : State) : (receive o b s).scratch = s.scratch := rfl
@[simp] theorem receive_trace (o b : Byte) (s : State) : (receive o b s).trace = s.trace ++ [.xfer o b] := rfl
@[simp] theorem receive_fault (o b : Byte) (s : State) : (receive o b s).fault = s.fault := rfl
@[simp] theorem receive_mem (o b : Byte) (s : State) : (receive o b s).mem = s.mem := rfl
@[simp] theorem receive_port (o b : Byte) (s : State) : (receive o b s).port = s.port := rfl
@[simp] theorem receive_completions (o b : Byte) (s : State) : (receive o b s).completions = s.completions := rfl
@[simp] theorem receive_card (o b : Byte) (s : State) : (receive o b s).card = s.card.tail := rfl
@[simp] theorem receive_draws (o b : Byte) (s : State) : (receive o b s).draws = s.draws + 1 := rfl

/-! ### `xfer` -/

@[simp] theorem xfer_mode (o : Byte) (s : State) : (xfer o s).mode = s.mode := rfl
@[simp] theorem xfer_cs (o : Byte) (s : State) : (xfer o s).cs = s.cs := rfl
@[simp] theorem xfer_pwr (o : Byte) (s : State) : (xfer o s).pwr = s.pwr := rfl
@[simp] theorem xfer_ctl (o : Byte) (s : State) : (xfer o s).ctl = s.ctl := rfl
@[simp] theorem xfer_w (o : Byte) (s : State) : (xfer o s).w = s.w := rfl
@[simp] theorem xfer_scratch (o : Byte) (s : State) : (xfer o s).scratch = s.scratch := rfl
@[simp] theorem xfer_trace (o : Byte) (s : State) : (xfer o s).trace = s.trace ++ [.xfer o (nextByte s)] := rfl
@[simp] theorem xfer_fault (o : Byte) (s : State) : (xfer o s).fault = s.fault := rfl
@[simp] theorem xfer_mem (o : Byte) (s : State) : (xfer o s).mem = s.mem := rfl
@[simp] theorem xfer_port (o : Byte) (s : State) : (xfer o s).port = s.port := rfl
@[simp] theorem xfer_completions (o : Byte) (s : State) : (xfer o s).completions = s.completions := rfl
@[simp] theorem xfer_card (o : Byte) (s : State) : (xfer o s).card = s.card.tail := rfl
@[simp] theorem xfer_draws (o : Byte) (s : State) : (xfer o s).draws = s.draws + 1 := rfl

/-! ### `setPower` -/

@[simp] theorem setPower_mode (on : Bool) (s : State) : (setPower on s).mode = s.mode := rfl
@[simp] theorem setPower_cs (on : Bool) (s : State) : (setPower on s).cs = s.cs := rfl
@[simp] theorem setPower_pwr (on : Bool) (s : State) : (setPower on s).pwr = on := rfl
@[simp] theorem setPower_ctl (on : Bool) (s : State) : (setPower on s).ctl = s.ctl := rfl
@[simp] theorem setPower_w (on : Bool) (s : State) : (setPower on s).w = s.w := rfl
@[simp] theorem setPower_scratch (on : Bool) (s : State) : (setPower on s).scratch = s.scratch := rfl
@[simp] theorem setPower_trace (on : Bool) (s : State) : (setPower on s).trace = s.trace ++ [.power on] := rfl
@[simp] theorem setPower_fault (on : Bool) (s : State) : (setPower on s).fault = s.fault := rfl
@[simp] theorem setPower_mem (on : Bool) (s : State) : (setPower on s).mem = s.mem := rfl
@[simp] theorem setPower_port (on : Bool) (s : State) : (setPower on s).port = s.port := rfl
@[simp] theorem setPower_completions (on : Bool) (s : State) : (setPower on s).completions = s.completions := rfl
@[simp] theorem setPower_card (on : Bool) (s : State) : (setPower on s).card = s.card := rfl
@[simp] theorem setPower_draws (on : Bool) (s : State) : (setPower on s).draws = s.draws := rfl

/-! ### `delayUs` -/

@[simp] theorem delayUs_mode (us : Nat) (s : State) : (delayUs us s).mode = s.mode := rfl
@[simp] theorem delayUs_cs (us : Nat) (s : State) : (delayUs us s).cs = s.cs := rfl
@[simp] theorem delayUs_pwr (us : Nat) (s : State) : (delayUs us s).pwr = s.pwr := rfl
@[simp] theorem delayUs_ctl (us : Nat) (s : State) : (delayUs us s).ctl = s.ctl := rfl
@[simp] theorem delayUs_w (us : Nat) (s : State) : (delayUs us s).w = s.w := rfl
@[simp] theorem delayUs_scratch (us : Nat) (s : State) : (delayUs us s).scratch = s.scratch := rfl
@[simp] theorem delayUs_trace (us : Nat) (s : State) : (delayUs us s).trace = s.trace ++ [.delay us] := rfl
@[simp] theorem delayUs_fault (us : Nat) (s : State) : (delayUs us s).fault = s.fault := rfl
@[simp] theorem delayUs_mem (us : Nat) (s : State) : (delayUs us s).mem = s.mem := rfl
@[simp] theorem delayUs_port (us : Nat) (s : State) : (delayUs us s).port = s.port := rfl
@[simp] theorem delayUs_completions (us : Nat) (s : State) : (delayUs us s).completions = s.completions := rfl
@[simp] theorem delayUs_card (us : Nat) (s : State) : (delayUs us s).card = s.card := rfl
@[simp] theorem delayUs_draws (us : Nat) (s : State) : (delayUs us s).draws = s.draws := rfl

/-! ### `raiseFault` -/

@[simp] theorem raiseFault_mode (n : FaultName) (s : State) : (raiseFault n s).mode = s.mode := rfl
@[simp] theorem raiseFault_cs (n : FaultName) (s : State) : (raiseFault n s).cs = s.cs := rfl
@[simp] theorem raiseFault_pwr (n : FaultName) (s : State) : (raiseFault n s).pwr = s.pwr := rfl
@[simp] theorem raiseFault_ctl (n : FaultName) (s : State) : (raiseFault n s).ctl = .fault := rfl
@[simp] theorem raiseFault_w (n : FaultName) (s : State) : (raiseFault n s).w = Work.empty := rfl
@[simp] theorem raiseFault_scratch (n : FaultName) (s : State) : (raiseFault n s).scratch = s.scratch := rfl
@[simp] theorem raiseFault_trace (n : FaultName) (s : State) : (raiseFault n s).trace = s.trace := rfl
@[simp] theorem raiseFault_fault (n : FaultName) (s : State) : (raiseFault n s).fault = some n := rfl
@[simp] theorem raiseFault_mem (n : FaultName) (s : State) : (raiseFault n s).mem = s.mem := rfl
@[simp] theorem raiseFault_port (n : FaultName) (s : State) : (raiseFault n s).port = s.port := rfl
@[simp] theorem raiseFault_completions (n : FaultName) (s : State) : (raiseFault n s).completions = s.completions := rfl
@[simp] theorem raiseFault_card (n : FaultName) (s : State) : (raiseFault n s).card = s.card := rfl
@[simp] theorem raiseFault_draws (n : FaultName) (s : State) : (raiseFault n s).draws = s.draws := rfl

/-! ### `finish` -/

@[simp] theorem finish_mode (r : HostResult) (s : State) : (finish r s).mode = s.mode := rfl
@[simp] theorem finish_cs (r : HostResult) (s : State) : (finish r s).cs = s.cs := rfl
@[simp] theorem finish_pwr (r : HostResult) (s : State) : (finish r s).pwr = s.pwr := rfl
@[simp] theorem finish_ctl (r : HostResult) (s : State) : (finish r s).ctl = .idle := rfl
@[simp] theorem finish_w (r : HostResult) (s : State) : (finish r s).w = Work.empty := rfl
@[simp] theorem finish_scratch (r : HostResult) (s : State) : (finish r s).scratch = s.scratch := rfl
@[simp] theorem finish_trace (r : HostResult) (s : State) : (finish r s).trace = s.trace := rfl
@[simp] theorem finish_fault (r : HostResult) (s : State) : (finish r s).fault = s.fault := rfl
@[simp] theorem finish_mem (r : HostResult) (s : State) : (finish r s).mem = s.mem := rfl
@[simp] theorem finish_port (r : HostResult) (s : State) : (finish r s).port = s.port := rfl
@[simp] theorem finish_completions (r : HostResult) (s : State) : (finish r s).completions = s.completions ++ [r] := rfl
@[simp] theorem finish_card (r : HostResult) (s : State) : (finish r s).card = s.card := rfl
@[simp] theorem finish_draws (r : HostResult) (s : State) : (finish r s).draws = s.draws := rfl

/-! ### `engineReset` -/

@[simp] theorem engineReset_mode (s : State) : (engineReset s).mode = .none := rfl
@[simp] theorem engineReset_cs (s : State) : (engineReset s).cs = .high := rfl
@[simp] theorem engineReset_pwr (s : State) : (engineReset s).pwr = Config.pwrReset := rfl
@[simp] theorem engineReset_ctl (s : State) : (engineReset s).ctl = .idle := rfl
@[simp] theorem engineReset_w (s : State) : (engineReset s).w = Work.empty := rfl
@[simp] theorem engineReset_scratch (s : State) : (engineReset s).scratch = [] := rfl
@[simp] theorem engineReset_trace (s : State) : (engineReset s).trace = [] := rfl
@[simp] theorem engineReset_fault (s : State) : (engineReset s).fault = none := rfl
@[simp] theorem engineReset_mem (s : State) : (engineReset s).mem = s.mem := rfl
@[simp] theorem engineReset_port (s : State) : (engineReset s).port = [] := rfl
@[simp] theorem engineReset_completions (s : State) : (engineReset s).completions = [] := rfl
@[simp] theorem engineReset_card (s : State) : (engineReset s).card = s.card := rfl
@[simp] theorem engineReset_draws (s : State) : (engineReset s).draws = s.draws := rfl

/-! ### `buildFrame` -/

@[simp] theorem buildFrame_mode (x : Index) (a : U32) (s : State) : (buildFrame x a s).mode = s.mode := rfl
@[simp] theorem buildFrame_cs (x : Index) (a : U32) (s : State) : (buildFrame x a s).cs = s.cs := rfl
@[simp] theorem buildFrame_pwr (x : Index) (a : U32) (s : State) : (buildFrame x a s).pwr = s.pwr := rfl
@[simp] theorem buildFrame_ctl (x : Index) (a : U32) (s : State) : (buildFrame x a s).ctl = s.ctl := rfl
@[simp] theorem buildFrame_w (x : Index) (a : U32) (s : State) : (buildFrame x a s).w = { s.w with frame := some (Frame.build x a) } := rfl
@[simp] theorem buildFrame_scratch (x : Index) (a : U32) (s : State) : (buildFrame x a s).scratch = s.scratch := rfl
@[simp] theorem buildFrame_trace (x : Index) (a : U32) (s : State) : (buildFrame x a s).trace = s.trace := rfl
@[simp] theorem buildFrame_fault (x : Index) (a : U32) (s : State) : (buildFrame x a s).fault = s.fault := rfl
@[simp] theorem buildFrame_mem (x : Index) (a : U32) (s : State) : (buildFrame x a s).mem = s.mem := rfl
@[simp] theorem buildFrame_port (x : Index) (a : U32) (s : State) : (buildFrame x a s).port = s.port := rfl
@[simp] theorem buildFrame_completions (x : Index) (a : U32) (s : State) : (buildFrame x a s).completions = s.completions := rfl
@[simp] theorem buildFrame_card (x : Index) (a : U32) (s : State) : (buildFrame x a s).card = s.card := rfl
@[simp] theorem buildFrame_draws (x : Index) (a : U32) (s : State) : (buildFrame x a s).draws = s.draws := rfl

/-! ### `enterReadR1` -/

@[simp] theorem enterReadR1_mode (c : Site) (s : State) : (enterReadR1 c s).mode = s.mode := rfl
@[simp] theorem enterReadR1_cs (c : Site) (s : State) : (enterReadR1 c s).cs = s.cs := rfl
@[simp] theorem enterReadR1_pwr (c : Site) (s : State) : (enterReadR1 c s).pwr = s.pwr := rfl
@[simp] theorem enterReadR1_ctl (c : Site) (s : State) : (enterReadR1 c s).ctl = .r1 c .pollCsLow := rfl
@[simp] theorem enterReadR1_w (c : Site) (s : State) : (enterReadR1 c s).w = { s.w with poll := some 1 } := rfl
@[simp] theorem enterReadR1_scratch (c : Site) (s : State) : (enterReadR1 c s).scratch = s.scratch := rfl
@[simp] theorem enterReadR1_trace (c : Site) (s : State) : (enterReadR1 c s).trace = s.trace := rfl
@[simp] theorem enterReadR1_fault (c : Site) (s : State) : (enterReadR1 c s).fault = s.fault := rfl
@[simp] theorem enterReadR1_mem (c : Site) (s : State) : (enterReadR1 c s).mem = s.mem := rfl
@[simp] theorem enterReadR1_port (c : Site) (s : State) : (enterReadR1 c s).port = s.port := rfl
@[simp] theorem enterReadR1_completions (c : Site) (s : State) : (enterReadR1 c s).completions = s.completions := rfl
@[simp] theorem enterReadR1_card (c : Site) (s : State) : (enterReadR1 c s).card = s.card := rfl
@[simp] theorem enterReadR1_draws (c : Site) (s : State) : (enterReadR1 c s).draws = s.draws := rfl

/-! ### `r1Exchange` -/

@[simp] theorem r1Exchange_mode (b : Byte) (s : State) : (r1Exchange b s).mode = s.mode := rfl
@[simp] theorem r1Exchange_cs (b : Byte) (s : State) : (r1Exchange b s).cs = .high := rfl
@[simp] theorem r1Exchange_pwr (b : Byte) (s : State) : (r1Exchange b s).pwr = s.pwr := rfl
@[simp] theorem r1Exchange_ctl (b : Byte) (s : State) : (r1Exchange b s).ctl = s.ctl := rfl
@[simp] theorem r1Exchange_w (b : Byte) (s : State) : (r1Exchange b s).w = { s.w with tok := some b } := rfl
@[simp] theorem r1Exchange_scratch (b : Byte) (s : State) : (r1Exchange b s).scratch = s.scratch := rfl
theorem r1Exchange_trace_raw (b : Byte) (s : State) :
    (r1Exchange b s).trace = s.trace ++ [.cs .low] ++ [.xfer 0xFF b] ++ [.cs .high] := rfl
@[simp] theorem r1Exchange_trace (b : Byte) (s : State) : (r1Exchange b s).trace = s.trace ++ pollEvents b := by
  simp [r1Exchange_trace_raw, pollEvents]
@[simp] theorem r1Exchange_fault (b : Byte) (s : State) : (r1Exchange b s).fault = s.fault := rfl
@[simp] theorem r1Exchange_mem (b : Byte) (s : State) : (r1Exchange b s).mem = s.mem := rfl
@[simp] theorem r1Exchange_port (b : Byte) (s : State) : (r1Exchange b s).port = s.port := rfl
@[simp] theorem r1Exchange_completions (b : Byte) (s : State) : (r1Exchange b s).completions = s.completions := rfl
@[simp] theorem r1Exchange_card (b : Byte) (s : State) : (r1Exchange b s).card = s.card.tail := rfl
@[simp] theorem r1Exchange_draws (b : Byte) (s : State) : (r1Exchange b s).draws = s.draws + 1 := rfl

/-! ### `r1Xfer` -/

@[simp] theorem r1Xfer_mode (s : State) : (r1Xfer s).mode = s.mode := rfl
@[simp] theorem r1Xfer_cs (s : State) : (r1Xfer s).cs = s.cs := rfl
@[simp] theorem r1Xfer_pwr (s : State) : (r1Xfer s).pwr = s.pwr := rfl
@[simp] theorem r1Xfer_ctl (s : State) : (r1Xfer s).ctl = s.ctl := rfl
@[simp] theorem r1Xfer_w (s : State) : (r1Xfer s).w = { s.w with tok := some (nextByte s) } := rfl
@[simp] theorem r1Xfer_scratch (s : State) : (r1Xfer s).scratch = s.scratch := rfl
@[simp] theorem r1Xfer_trace (s : State) : (r1Xfer s).trace = s.trace ++ [.xfer 0xFF (nextByte s)] := rfl
@[simp] theorem r1Xfer_fault (s : State) : (r1Xfer s).fault = s.fault := rfl
@[simp] theorem r1Xfer_mem (s : State) : (r1Xfer s).mem = s.mem := rfl
@[simp] theorem r1Xfer_port (s : State) : (r1Xfer s).port = s.port := rfl
@[simp] theorem r1Xfer_completions (s : State) : (r1Xfer s).completions = s.completions := rfl
@[simp] theorem r1Xfer_card (s : State) : (r1Xfer s).card = s.card.tail := rfl
@[simp] theorem r1Xfer_draws (s : State) : (r1Xfer s).draws = s.draws + 1 := rfl

/-! ### `callFrame` -/

@[simp] theorem callFrame_mode (c : Site) (x : Index) (a : U32) (s : State) : (callFrame c x a s).mode = s.mode := rfl
@[simp] theorem callFrame_cs (c : Site) (x : Index) (a : U32) (s : State) : (callFrame c x a s).cs = s.cs := rfl
@[simp] theorem callFrame_pwr (c : Site) (x : Index) (a : U32) (s : State) : (callFrame c x a s).pwr = s.pwr := rfl
@[simp] theorem callFrame_ctl (c : Site) (x : Index) (a : U32) (s : State) : (callFrame c x a s).ctl = .frame c .csLow := rfl
@[simp] theorem callFrame_w (c : Site) (x : Index) (a : U32) (s : State) : (callFrame c x a s).w = { s.w with idx := some x, arg := some a } := rfl
@[simp] theorem callFrame_scratch (c : Site) (x : Index) (a : U32) (s : State) : (callFrame c x a s).scratch = s.scratch := rfl
@[simp] theorem callFrame_trace (c : Site) (x : Index) (a : U32) (s : State) : (callFrame c x a s).trace = s.trace := rfl
@[simp] theorem callFrame_fault (c : Site) (x : Index) (a : U32) (s : State) : (callFrame c x a s).fault = s.fault := rfl
@[simp] theorem callFrame_mem (c : Site) (x : Index) (a : U32) (s : State) : (callFrame c x a s).mem = s.mem := rfl
@[simp] theorem callFrame_port (c : Site) (x : Index) (a : U32) (s : State) : (callFrame c x a s).port = s.port := rfl
@[simp] theorem callFrame_completions (c : Site) (x : Index) (a : U32) (s : State) : (callFrame c x a s).completions = s.completions := rfl
@[simp] theorem callFrame_card (c : Site) (x : Index) (a : U32) (s : State) : (callFrame c x a s).card = s.card := rfl
@[simp] theorem callFrame_draws (c : Site) (x : Index) (a : U32) (s : State) : (callFrame c x a s).draws = s.draws := rfl

/-! ### `setAttempt` -/

@[simp] theorem setAttempt_mode (n : Attempt) (s : State) : (setAttempt n s).mode = s.mode := rfl
@[simp] theorem setAttempt_cs (n : Attempt) (s : State) : (setAttempt n s).cs = s.cs := rfl
@[simp] theorem setAttempt_pwr (n : Attempt) (s : State) : (setAttempt n s).pwr = s.pwr := rfl
@[simp] theorem setAttempt_ctl (n : Attempt) (s : State) : (setAttempt n s).ctl = s.ctl := rfl
@[simp] theorem setAttempt_w (n : Attempt) (s : State) : (setAttempt n s).w = { s.w with attempt := some n } := rfl
@[simp] theorem setAttempt_scratch (n : Attempt) (s : State) : (setAttempt n s).scratch = s.scratch := rfl
@[simp] theorem setAttempt_trace (n : Attempt) (s : State) : (setAttempt n s).trace = s.trace := rfl
@[simp] theorem setAttempt_fault (n : Attempt) (s : State) : (setAttempt n s).fault = s.fault := rfl
@[simp] theorem setAttempt_mem (n : Attempt) (s : State) : (setAttempt n s).mem = s.mem := rfl
@[simp] theorem setAttempt_port (n : Attempt) (s : State) : (setAttempt n s).port = s.port := rfl
@[simp] theorem setAttempt_completions (n : Attempt) (s : State) : (setAttempt n s).completions = s.completions := rfl
@[simp] theorem setAttempt_card (n : Attempt) (s : State) : (setAttempt n s).card = s.card := rfl
@[simp] theorem setAttempt_draws (n : Attempt) (s : State) : (setAttempt n s).draws = s.draws := rfl

/-! ### `tokenFound` -/

@[simp] theorem tokenFound_mode (o : Owner) (s : State) : (tokenFound o s).mode = s.mode := rfl
@[simp] theorem tokenFound_cs (o : Owner) (s : State) : (tokenFound o s).cs = s.cs := rfl
@[simp] theorem tokenFound_pwr (o : Owner) (s : State) : (tokenFound o s).pwr = s.pwr := rfl
@[simp] theorem tokenFound_ctl (o : Owner) (s : State) : (tokenFound o s).ctl = .block o .data := rfl
@[simp] theorem tokenFound_w (o : Owner) (s : State) : (tokenFound o s).w = { s.w with i := some 0 } := rfl
@[simp] theorem tokenFound_scratch (o : Owner) (s : State) : (tokenFound o s).scratch = s.scratch := rfl
@[simp] theorem tokenFound_trace (o : Owner) (s : State) : (tokenFound o s).trace = s.trace := rfl
@[simp] theorem tokenFound_fault (o : Owner) (s : State) : (tokenFound o s).fault = s.fault := rfl
@[simp] theorem tokenFound_mem (o : Owner) (s : State) : (tokenFound o s).mem = s.mem := rfl
@[simp] theorem tokenFound_port (o : Owner) (s : State) : (tokenFound o s).port = s.port := rfl
@[simp] theorem tokenFound_completions (o : Owner) (s : State) : (tokenFound o s).completions = s.completions := rfl
@[simp] theorem tokenFound_card (o : Owner) (s : State) : (tokenFound o s).card = s.card := rfl
@[simp] theorem tokenFound_draws (o : Owner) (s : State) : (tokenFound o s).draws = s.draws := rfl

/-! ### The parameters that leave nothing to do -/

/-- GO_IDLE has no delay between attempts (R157). -/
@[simp] theorem pause_goIdle (s : State) : pause Params.goIdleDelayUs s = s := rfl

/-- The first failed trial read is ProbeMode's last attempt (R167, R168). -/
@[simp] theorem probeFailed_one (s : State) : probeFailed 1 s = finish (.initErr .probeFailed) { s with mode := .none } :=
  rfl

/-! ### The draws -/

theorem nextByte_eq_drawn (s : State) : nextByte s = drawn s 0 := by
  cases h : s.card <;> simp [nextByte, drawn, h]

/-- An exchange moves every later draw one nearer. -/
@[simp] theorem drawn_receive (o b : Byte) (s : State) (n : Nat) : drawn (receive o b s) n = drawn s (n + 1) := by
  simp only [drawn, receive_card, receive_draws, List.drop_tail, Nat.add_assoc, Nat.add_comm 1 n]

@[simp] theorem drawn_xfer (o : Byte) (s : State) (n : Nat) : drawn (xfer o s) n = drawn s (n + 1) :=
  drawn_receive o (nextByte s) s n

/-- The draws depend on the card alone. -/
theorem drawn_congr {s t : State} (hc : t.card = s.card) (hd : t.draws = s.draws) (n : Nat) :
    drawn t n = drawn s n := by simp only [drawn, hc, hd]

@[simp] theorem drawn_emit (e : Event) (s : State) (j : Nat) : drawn (emit e s) j = drawn s j := rfl
@[simp] theorem drawn_setCs (l : Level) (s : State) (j : Nat) : drawn (setCs l s) j = drawn s j := rfl
@[simp] theorem drawn_setPower (on : Bool) (s : State) (j : Nat) : drawn (setPower on s) j = drawn s j := rfl
@[simp] theorem drawn_delayUs (us : Nat) (s : State) (j : Nat) : drawn (delayUs us s) j = drawn s j := rfl
@[simp] theorem drawn_raiseFault (n : FaultName) (s : State) (j : Nat) : drawn (raiseFault n s) j = drawn s j := rfl
@[simp] theorem drawn_finish (r : HostResult) (s : State) (j : Nat) : drawn (finish r s) j = drawn s j := rfl
@[simp] theorem drawn_buildFrame (x : Index) (a : U32) (s : State) (j : Nat) : drawn (buildFrame x a s) j = drawn s j := rfl
@[simp] theorem drawn_enterReadR1 (c : Site) (s : State) (j : Nat) : drawn (enterReadR1 c s) j = drawn s j := rfl
@[simp] theorem drawn_r1Exchange (b : Byte) (s : State) (n : Nat) : drawn (r1Exchange b s) n = drawn s (n + 1) := by
  rw [← drawn_receive 0xFF b s n]; rfl
@[simp] theorem drawn_callFrame (c : Site) (x : Index) (a : U32) (s : State) (j : Nat) : drawn (callFrame c x a s) j = drawn s j := rfl
@[simp] theorem drawn_setAttempt (n : Attempt) (s : State) (j : Nat) : drawn (setAttempt n s) j = drawn s j := rfl
@[simp] theorem drawn_tokenFound (o : Owner) (s : State) (j : Nat) : drawn (tokenFound o s) j = drawn s j := rfl

end Sys2Proof.Machine
end

