-- ==== Sys2Proof/Laws/Ops.lean ====
section
/-! SUPPORT. What each shared operation can do, said once; later proofs cite these and do not unfold the operations. -/

namespace Sys2Proof.Machine

/-! ### Reading a register, and the guards of the meanings -/

/-- A register read goes on with the value the register holds, or raises the model fault. -/
theorem needReg_next {α : Type} {v : Option α} {r : WorkReg} {s : State} {k : α → Out} {t : State} :
    needReg v r s k = .next t ↔
      (∃ x, v = some x ∧ k x = .next t) ∨ (v = none ∧ t = raiseFault (.unwrittenRegister r) s) := by
  cases v <;> simp [needReg, eq_comm]

@[simp] theorem needReg_some {α : Type} (x : α) (r : WorkReg) (s : State) (k : α → Out) :
    needReg (some x) r s k = k x := rfl

@[simp] theorem needReg_none {α : Type} (r : WorkReg) (s : State) (k : α → Out) :
    needReg none r s k = .next (raiseFault (.unwrittenRegister r) s) := rfl

theorem unlessFaulted_of {s : State} (h : s.ctl ≠ .fault) (k : Out) : unlessFaulted s k = k := by
  unfold unlessFaulted; split <;> first | rfl | contradiction

theorem unlessFaulted_next {s t : State} {k : Out} (h : unlessFaulted s k = .next t) : s.ctl ≠ .fault ∧ k = .next t := by
  by_cases hf : s.ctl = .fault
  · simp [unlessFaulted, hf] at h
  · exact ⟨hf, by rwa [unlessFaulted_of hf] at h⟩

theorem whenIdle_of {s : State} (h : s.ctl = .idle) (k : State) : whenIdle s k = .next k := by simp [whenIdle, h]

theorem whenIdle_next {s t k : State} (h : whenIdle s k = .next t) : s.ctl = .idle ∧ t = k := by
  simp only [whenIdle] at h; split at h
  · next hi => cases h; exact ⟨hi, rfl⟩
  all_goals cases h

theorem atR1Poll_of {s : State} {c : Site} (h : s.ctl = .r1 c .pollCsLow) (k : Site → Out) : atR1Poll s k = k c := by
  simp [atR1Poll, h]

theorem atR1Poll_next {s t : State} {k : Site → Out} (h : atR1Poll s k = .next t) :
    ∃ c, s.ctl = .r1 c .pollCsLow ∧ k c = .next t := by
  simp only [atR1Poll] at h; split at h
  · next c hc => exact ⟨c, hc, h⟩
  all_goals cases h

theorem atTokenPoll_of {s : State} {o : Owner} (h : s.ctl = .block o .tokenPoll) (k : Owner → Out) :
    atTokenPoll s k = k o := by simp [atTokenPoll, h]

theorem atTokenPoll_next {s t : State} {k : Owner → Out} (h : atTokenPoll s k = .next t) :
    ∃ o, s.ctl = .block o .tokenPoll ∧ k o = .next t := by
  simp only [atTokenPoll] at h; split at h
  · next o ho => exact ⟨o, ho, h⟩
  all_goals cases h

/-! ### The counters -/

/-- The attempt after one that is not the last of any budget (R28). -/
theorem attempt_succ {n : Attempt} (h : n.toNat < 1000) : (n + 1).toNat = n.toNat + 1 := by bv_omega

/-- The poll after one that is not the last of any budget (R28). -/
theorem poll_succ {k : Poll} (h : k.toNat < 10000) : (k + 1).toNat = k.toNat + 1 := by bv_omega

/-- The index after one that is not the last of the stream (R28). -/
theorem index_succ {i : StreamIndex} (h : i.toNat < 513) : (i + 1).toNat = i.toNat + 1 := by bv_omega

theorem Work.attemptNo_of {w : Work} {n : Attempt} (h : w.attempt = some n) : w.attemptNo = n.toNat := by
  simp [Work.attemptNo, h]

theorem Work.pollNo_of {w : Work} {k : Poll} (h : w.poll = some k) : w.pollNo = k.toNat := by simp [Work.pollNo, h]

theorem Work.indexNo_of {w : Work} {i : StreamIndex} (h : w.i = some i) : w.indexNo = i.toNat := by
  simp [Work.indexNo, h]

/-! ### FRAME and READ_R1's exchange -/

/-- One bracketed exchange leaves what `polled` says. -/
theorem r1Exchange_eq_polled (b : Byte) (s : State) : r1Exchange b s = polled s b := by
  simp [r1Exchange, polled, setCs, receive, emit, pollEvents, Params.idleByte]

/-- The six exchanges of a frame in an open bracket. -/
theorem sendFrame_eq (f : Frame) (s : State) : sendFrame f s = { s with
    trace := s.trace ++ [.xfer f.b0 (drawn s 0), .xfer f.b1 (drawn s 1), .xfer f.b2 (drawn s 2), .xfer f.b3 (drawn s 3),
      .xfer f.b4 (drawn s 4), .xfer f.b5 (drawn s 5)]
    card := s.card.drop 6, draws := s.draws + 6 } := by
  have hd (l : List Byte) : l.tail.tail.tail.tail.tail.tail = l.drop 6 := by simp [← List.drop_one, List.drop_drop]
  simp [sendFrame, xfer, receive, emit, nextByte_eq_drawn, drawn, hd]

/-- FRAME leaves what `sentFrame` says; its caller goes on with READ_R1. -/
theorem frameProc_at {s : State} {c : Site} (h : s.ctl = .frame c .csLow) (x : Index) (a : U32) :
    frameProc x a s = enterReadR1 c (sentFrame s (Frame.build x a)) := by
  simp [frameProc, sendFrame_eq, frameReturn, h, sentFrame, setCs, emit, buildFrame, frameEvents, drawn, enterReadR1]

/-- The framer used alone on an idle engine leaves what `sentFrame` says, but for `frame`, which holds no value. -/
theorem frameProc_idle {s : State} (h : s.ctl = .idle) (x : Index) (a : U32) :
    frameProc x a s = { sentFrame s (Frame.build x a) with w := { s.w with frame := none } } := by
  simp [frameProc, sendFrame_eq, frameReturn, h, sentFrame, setCs, emit, buildFrame, frameEvents, drawn]

/-- The framer used alone in a busy engine leaves what `sentFrame` says. -/
theorem frameProc_busy {s : State} (hi : s.ctl ≠ .idle) (h : ∀ c, s.ctl ≠ .frame c .csLow) (x : Index) (a : U32) :
    frameProc x a s = sentFrame s (Frame.build x a) := by
  have e : setCs .high (sendFrame (Frame.build x a) (setCs .low (buildFrame x a s))) = sentFrame s (Frame.build x a) := by
    simp [sendFrame_eq, sentFrame, setCs, emit, buildFrame, frameEvents, drawn]
  have hc : (sentFrame s (Frame.build x a)).ctl = s.ctl := rfl
  rw [frameProc, e, frameReturn, hc]; split
  · next c h' => exact absurd h' (h c)
  · next h' => exact absurd h' hi
  · rfl

/-! ### Writing a buffer -/

/-- A write inside a buffer: what every byte of every buffer reads after it, and that nothing but memory changes. -/
theorem memWrite_of {b : Buf} {off n : Nat} {v : Byte} {s : State} (h : off + n ≤ 512) :
    ∃ t, memWrite b off n v s = .next t ∧ t = { s with mem := t.mem, scratch := t.scratch } ∧
      ∀ b' k, k < 512 → bufRead b' k t = if b' = b ∧ off ≤ k ∧ k < off + n then some v else bufRead b' k s := by
  have h' : off + n ≤ Params.sectorSize := h
  cases b with
  | scratch =>
    refine ⟨{ s with scratch := Mem.fill s.scratch off n v }, by simp [memWrite, h'], rfl, fun b' k _ => ?_⟩
    cases b' <;> simp [bufRead, Mem.read_fill]
  | caller hd =>
    refine ⟨{ s with mem := Mem.fill s.mem (callerAddr hd off) n v }, by simp [memWrite, h'], rfl, fun b' k hk => ?_⟩
    cases b' with
    | scratch => simp [bufRead]
    | caller h2 =>
      have e : (callerAddr hd off ≤ callerAddr h2 k ∧ callerAddr h2 k < callerAddr hd off + n) ↔
          (Buf.caller h2 = Buf.caller hd ∧ off ≤ k ∧ k < off + n) := by
        simp only [callerAddr, Params.sectorSize, Buf.caller.injEq, ← BitVec.toNat_inj]; omega
      simp only [bufRead, Mem.read_fill, e]

/-- A write that answers a next state stayed inside its buffer, and kept the canonical forms. -/
theorem memWrite_next {b : Buf} {off n : Nat} {v : Byte} {s t : State} (h : memWrite b off n v s = .next t) :
    off + n ≤ 512 ∧ t = { s with mem := t.mem, scratch := t.scratch } ∧
      (Mem.wf s.mem = true → Mem.wf t.mem = true) ∧ (Mem.wf s.scratch = true → Mem.wf t.scratch = true) ∧
      ((∀ c ∈ s.scratch, c.1 < 512) → ∀ c ∈ t.scratch, c.1 < 512) := by
  simp only [memWrite] at h
  split at h
  · next hb =>
    refine ⟨hb, ?_⟩
    cases b with
    | caller hd => cases h; exact ⟨rfl, Mem.wf_fill _ _ _, id, id⟩
    | scratch =>
      cases h
      refine ⟨rfl, id, Mem.wf_fill _ _ _, fun hs c hc => ?_⟩
      rcases Mem.mem_fill hc with hc | hc
      · exact hs c hc
      · have : off + n ≤ 512 := hb; omega
  · cases h

/-! ### The wire argument -/

/-- The cases of WIRE_ARG that have a value (R193). -/
theorem wireArg_ok {m : Mode} {x a : U32} (h : wireArg m x = .ok a) :
    (m = .sdhc ∧ a = x) ∨ (m = .sdsc ∧ x.toNat < 2 ^ 23 ∧ a = x <<< 9) := by
  cases m with
  | none => cases h
  | sdhc => cases h; exact .inl ⟨rfl, rfl⟩
  | sdsc =>
    simp only [wireArg] at h; split at h
    · next hx => cases h; exact .inr ⟨rfl, hx, rfl⟩
    · cases h

/-- The SDSC wire argument is 512 times the sector, exactly (R193). -/
theorem wireArg_sdsc_toNat {x : U32} (h : x.toNat < 2 ^ 23) : (x <<< 9).toNat = x.toNat * 512 := by
  simp only [BitVec.toNat_shiftLeft, Nat.shiftLeft_eq]; omega

end Sys2Proof.Machine
end

