-- ==== Sys2Proof/Laws/PerInstr.lean ====
section
/-! SUPPORT. The statement families the host splits by constructor: every row's encoding against the opcode table. -/

namespace Sys2Proof.Laws.RowMatch

/-- The row's mask and match, byte by byte in wire order, as spec/opcode_table.json writes them (R88). The operands of
READ_SECTOR follow its one byte (R84). -/
def row : Instr → List (Byte × Byte)
  | .cmd0 => [(0xFF, 0x40), (0xFF, 0x00), (0xFF, 0x00), (0xFF, 0x00), (0xFF, 0x00), (0xFF, 0x95)]
  | .cmd8 => [(0xFF, 0x48), (0xFF, 0x00), (0xFF, 0x00), (0xFF, 0x01), (0xFF, 0xAA), (0xFF, 0x87)]
  | .cmd17 _ => [(0xFF, 0x51), (0x00, 0x00), (0x00, 0x00), (0x00, 0x00), (0x00, 0x00), (0x01, 0x01)]
  | .cmd55 => [(0xFF, 0x77), (0xFF, 0x00), (0xFF, 0x00), (0xFF, 0x00), (0xFF, 0x00), (0x01, 0x01)]
  | .acmd41 => [(0xFF, 0x69), (0xFF, 0x40), (0xFF, 0x00), (0xFF, 0x00), (0xFF, 0x00), (0x01, 0x01)]
  | .cmdN _ _ => [(0xC0, 0x40), (0x00, 0x00), (0x00, 0x00), (0x00, 0x00), (0x00, 0x00), (0x01, 0x01)]
  | .init => [(0xFF, 0x01)]
  | .readSector _ _ => [(0xFF, 0x02)]
  | .rxR1NotArrived _ => [(0x80, 0x80)]
  | .rxR1Vendor => [(0xFF, 0x1F)]
  | .rxR1Token _ => [(0x80, 0x00)]
  | .rxDataToken => [(0xFF, 0xFE)]
  | .rxDataBusy _ => [(0x00, 0x00)]

/-- The first bytes of the encoding have the row's fixed bits. -/
def Statement (i : Instr) : Prop :=
  List.Forall₂ (fun (b : Byte) (m : Byte × Byte) => b &&& m.1 = m.2) ((encode i).take (row i).length) (row i)

theorem stopForm_odd (c : Crc) : stopForm c &&& 1#8 = 1#8 := by
  simp only [stopForm]; ext i; simp [BitVec.getElem_and, BitVec.getElem_or]; omega

theorem checksum_odd (x : Index) (h : List Byte) : checksum x h &&& 1#8 = 1#8 := by
  simp only [checksum]; split
  · rfl
  · split
    · rfl
    · exact stopForm_odd _

theorem startByte_top (x : Index) : startByte x &&& 192#8 = 64#8 := by revert x; decide

theorem cmd0 : Statement .cmd0 := by simp [Statement, row, encode, frameBytes, frameHead, be32]; decide
theorem cmd8 : Statement .cmd8 := by simp [Statement, row, encode, frameBytes, frameHead, be32]; decide
theorem cmd17 (warg : U32) : Statement (.cmd17 warg) := by
  simp [Statement, row, encode, frameBytes, frameHead, be32, checksum_odd]; decide
theorem cmd55 : Statement .cmd55 := by
  simp [Statement, row, encode, frameBytes, frameHead, be32, checksum_odd]; decide
theorem acmd41 : Statement .acmd41 := by
  simp [Statement, row, encode, frameBytes, frameHead, be32, checksum_odd]; decide
theorem cmdN (n : Index) (arg : U32) : Statement (.cmdN n arg) := by
  simp [Statement, row, encode, frameBytes, frameHead, be32, checksum_odd, startByte_top]
theorem init : Statement .init := by simp [Statement, row, encode]; decide
theorem readSector (sector buf : U32) : Statement (.readSector sector buf) := by simp [Statement, row, encode]; decide
theorem rxR1NotArrived (b : BitVec 7) : Statement (.rxR1NotArrived b) := by
  simp [Statement, row, encode]; revert b; decide
theorem rxR1Vendor : Statement .rxR1Vendor := by simp [Statement, row, encode]; decide
theorem rxR1Token (f : BitVec 7) : Statement (.rxR1Token f) := by simp [Statement, row, encode]; revert f; decide
theorem rxDataToken : Statement .rxDataToken := by simp [Statement, row, encode]; decide
theorem rxDataBusy (b : Byte) : Statement (.rxDataBusy b) := by simp [Statement, row, encode]

end Sys2Proof.Laws.RowMatch
end

