-- ==== Sys2Proof/Laws/Sequencer.lean ====
section
/-! SUPPORT. What READ_R1's return to its caller can do, and what a step can do, each said once. -/

namespace Sys2Proof.Machine

/-! ### READ_R1's return -/

/-- The next states of a site whose READ_R1 returned `r` in the state `u`. -/
inductive R1Answer (u : State) (r : Byte) : Site → State → Prop
  | goIdleOk : r = Params.r1Idle → R1Answer u r .goIdle (tryIfCond 1 u)
  | goIdleAgain (n : Attempt) : r ≠ Params.r1Idle → u.w.attempt = some n → n.toNat < 100 → R1Answer u r .goIdle (tryGoIdle (n + 1) u)
  | goIdleFailed (n : Attempt) : r ≠ Params.r1Idle → u.w.attempt = some n → 100 ≤ n.toNat →
      R1Answer u r .goIdle (finish (.initErr .goIdleFailed) u)
  | ifCondOk : r = Params.r1Idle → R1Answer u r .ifCond (tryNegotiate 1 u)
  | ifCondWait (n : Attempt) : r ≠ Params.r1Idle → u.w.attempt = some n → n.toNat < 100 →
      R1Answer u r .ifCond { u with ctl := .delay .ifCond }
  | ifCondFailed (n : Attempt) : r ≠ Params.r1Idle → u.w.attempt = some n → 100 ≤ n.toNat →
      R1Answer u r .ifCond (finish (.initErr .unsupportedCard) u)
  | app55 : R1Answer u r .app55 (callFrame .acmd41 Params.acmdIndex Params.acmd41Arg u)
  | acmd41Ok : r = Params.r1Ready → R1Answer u r .acmd41 { u with ctl := .setMode }
  | acmd41Wait (n : Attempt) : r ≠ Params.r1Ready → u.w.attempt = some n → n.toNat < 1000 →
      R1Answer u r .acmd41 { u with ctl := .delay .negotiate }
  | acmd41Failed (n : Attempt) : r ≠ Params.r1Ready → u.w.attempt = some n → 1000 ≤ n.toNat →
      R1Answer u r .acmd41 (finish (.initErr .negotiationFailed) u)
  | blockOk (o : Owner) : r = Params.r1Ready → R1Answer u r (.block o) { u with ctl := .block o .dataCsLow }
  | hostRejected : r ≠ Params.r1Ready → R1Answer u r (.block .host) (finish (.readErr (.cardRejected r)) u)
  | probeRejected : r ≠ Params.r1Ready →
      R1Answer u r (.block .probe) (finish (.initErr .probeFailed) { u with mode := .none })

theorem r1Return_next {c : Site} {r : Byte} {u t : State} (h : r1Return c r u = .next t) :
    R1Answer u r c t ∨ ((Ctl.r1 c .pollCsLow).reads .attempt = true ∧ u.w.attempt = none ∧
      t = raiseFault (.unwrittenRegister .attempt) u) := by
  cases c with
  | goIdle =>
    simp only [r1Return] at h; split at h
    · next hr => cases h; exact .inl (.goIdleOk hr)
    · next hr =>
      obtain ⟨n, hn, h⟩ | ⟨hn, rfl⟩ := needReg_next.1 h
      · split at h <;> cases h
        · next hb => exact .inl (.goIdleAgain n hr hn hb)
        · next hb => exact .inl (.goIdleFailed n hr hn (Nat.le_of_not_lt hb))
      · exact .inr ⟨rfl, hn, rfl⟩
  | ifCond =>
    simp only [r1Return] at h; split at h
    · next hr => cases h; exact .inl (.ifCondOk hr)
    · next hr =>
      obtain ⟨n, hn, h⟩ | ⟨hn, rfl⟩ := needReg_next.1 h
      · split at h <;> cases h
        · next hb => exact .inl (.ifCondWait n hr hn hb)
        · next hb => exact .inl (.ifCondFailed n hr hn (Nat.le_of_not_lt hb))
      · exact .inr ⟨rfl, hn, rfl⟩
  | app55 => cases h; exact .inl .app55
  | acmd41 =>
    simp only [r1Return] at h; split at h
    · next hr => cases h; exact .inl (.acmd41Ok hr)
    · next hr =>
      obtain ⟨n, hn, h⟩ | ⟨hn, rfl⟩ := needReg_next.1 h
      · split at h <;> cases h
        · next hb => exact .inl (.acmd41Wait n hr hn hb)
        · next hb => exact .inl (.acmd41Failed n hr hn (Nat.le_of_not_lt hb))
      · exact .inr ⟨rfl, hn, rfl⟩
  | block o =>
    simp only [r1Return] at h; split at h
    · next hr => cases h; exact .inl (.blockOk o hr)
    · next hr =>
      cases o <;> cases h
      · exact .inl (.probeRejected hr)
      · exact .inl (.hostRejected hr)

/-- READ_R1's return always goes on. -/
theorem r1Return_total (c : Site) (r : Byte) (u : State) : ∃ t, r1Return c r u = .next t := by
  cases c with
  | app55 => exact ⟨_, rfl⟩
  | block o => simp only [r1Return]; split <;> exact ⟨_, rfl⟩
  | goIdle | ifCond | acmd41 =>
    cases hn : u.w.attempt <;> simp only [r1Return, hn, needReg_some, needReg_none] <;> split_ifs <;> exact ⟨_, rfl⟩

/-! ### A step -/

/-- What an exchange in an open bracket leaves, as `exchanged` says. -/
theorem xfer_eq_exchanged (o : Byte) (s : State) : xfer o s = exchanged s o := by
  simp [xfer, receive, emit, exchanged, nextByte_eq_drawn]

/-- The next states of a state: what one step can do. -/
inductive StepTo (s : State) : State → Prop
  | wait : s.ctl = .idle → s.port = [] → StepTo s s
  | init (rest : List Byte) : s.ctl = .idle → decode .host s.port = .ok .init rest →
      StepTo s { s with port := rest, mode := .none, w := Work.empty, ctl := .power .pwrOff }
  | read (sector buf : U32) (rest : List Byte) : s.ctl = .idle → decode .host s.port = .ok (.readSector sector buf) rest →
      StepTo s { s with
        port := rest, ctl := .block .host .check
        w := { Work.empty with sector := some sector, buf := some (.caller buf) } }
  | pwrOff : s.ctl = .power .pwrOff → StepTo s { setPower false s with ctl := .power .waitOff }
  | waitOff : s.ctl = .power .waitOff → StepTo s { delayUs Config.tPwrOffUs s with ctl := .power .pwrOn }
  | pwrOn : s.ctl = .power .pwrOn → StepTo s { setPower true s with ctl := .power .waitOn }
  | waitOn : s.ctl = .power .waitOn → StepTo s { delayUs Config.tPwrOnUs s with ctl := .power .primeCsLow }
  | primeCsLow : s.ctl = .power .primeCsLow → StepTo s { setCs .low s with ctl := .power (.primeXfer 0) }
  | primeXfer (k : Fin Params.primeBytes) (hk : k.val + 1 < 10) : s.ctl = .power (.primeXfer k) →
      StepTo s { xfer 0xFF s with ctl := .power (.primeXfer ⟨k.val + 1, hk⟩) }
  | primeLast (k : Fin Params.primeBytes) : s.ctl = .power (.primeXfer k) → 10 ≤ k.val + 1 →
      StepTo s { xfer 0xFF s with ctl := .power .primeCsHigh }
  | primeCsHigh : s.ctl = .power .primeCsHigh → StepTo s (tryGoIdle 1 (setCs .high s))
  | frame (c : Site) (x : Index) (a : U32) : s.ctl = .frame c .csLow → s.w.idx = some x → s.w.arg = some a →
      StepTo s (enterReadR1 c (sentFrame s (Frame.build x a)))
  | frameXfer (c : Site) (f : Frame) (i : Fin Params.frameLen) (hi : i.val + 1 < 6) : s.ctl = .frame c (.xfer i) → s.w.frame = some f →
      StepTo s { xfer (f.byte i) s with ctl := .frame c (.xfer ⟨i.val + 1, hi⟩) }
  | frameLast (c : Site) (f : Frame) (i : Fin Params.frameLen) : s.ctl = .frame c (.xfer i) → 6 ≤ i.val + 1 → s.w.frame = some f →
      StepTo s { xfer (f.byte i) s with ctl := .frame c .csHigh }
  | frameClose (c : Site) : s.ctl = .frame c .csHigh → StepTo s (enterReadR1 c (setCs .high s))
  | missed (c : Site) (k : Poll) : s.ctl = .r1 c .pollCsLow → r1Arrived (drawn s 0) = false → s.w.poll = some k →
      k.toNat < 100 → StepTo s { polled s (drawn s 0) with w := { s.w with tok := some (drawn s 0), poll := some (k + 1) } }
  | exhausted (c : Site) (k : Poll) (t : State) : s.ctl = .r1 c .pollCsLow → r1Arrived (drawn s 0) = false →
      s.w.poll = some k → 100 ≤ k.toNat → R1Answer (polled s (drawn s 0)) (drawn s 0) c t → StepTo s t
  | token (c : Site) (t : State) : s.ctl = .r1 c .pollCsLow → r1Arrived (drawn s 0) = true →
      drawn s 0 ≠ Params.vendorByte → R1Answer (polled s (drawn s 0)) (drawn s 0) c t → StepTo s t
  | vendor (c : Site) (t : State) : s.ctl = .r1 c .pollCsLow → drawn s 0 = Params.vendorByte →
      R1Answer (polled (polled s (drawn s 0)) (drawn s 1)) (drawn s 1) c t → StepTo s t
  | pollXfer (c : Site) : s.ctl = .r1 c .pollXfer → StepTo s { r1Xfer s with ctl := .r1 c .pollCsHigh }
  | pollVendor (c : Site) : s.ctl = .r1 c .pollCsHigh → s.w.tok = some Params.vendorByte →
      StepTo s { setCs .high s with ctl := .r1 c .extraCsLow }
  | pollToken (c : Site) (b : Byte) (t : State) : s.ctl = .r1 c .pollCsHigh → s.w.tok = some b → r1Arrived b = true →
      b ≠ Params.vendorByte → R1Answer (setCs .high s) b c t → StepTo s t
  | pollMissed (c : Site) (b : Byte) (k : Poll) : s.ctl = .r1 c .pollCsHigh → s.w.tok = some b → r1Arrived b = false →
      s.w.poll = some k → k.toNat < 100 →
      StepTo s { setCs .high s with w := { s.w with poll := some (k + 1) }, ctl := .r1 c .pollCsLow }
  | pollExhausted (c : Site) (b : Byte) (k : Poll) (t : State) : s.ctl = .r1 c .pollCsHigh → s.w.tok = some b →
      r1Arrived b = false → s.w.poll = some k → 100 ≤ k.toNat → R1Answer (setCs .high s) b c t → StepTo s t
  | extraCsLow (c : Site) : s.ctl = .r1 c .extraCsLow → StepTo s { setCs .low s with ctl := .r1 c .extraXfer }
  | extraXfer (c : Site) : s.ctl = .r1 c .extraXfer → StepTo s { r1Xfer s with ctl := .r1 c .extraCsHigh }
  | extraCsHigh (c : Site) (b : Byte) (t : State) : s.ctl = .r1 c .extraCsHigh → s.w.tok = some b →
      R1Answer (setCs .high s) b c t → StepTo s t
  | delayIfCond (n : Attempt) : s.ctl = .delay .ifCond → s.w.attempt = some n →
      StepTo s (tryIfCond (n + 1) (delayUs 10000 s))
  | delayNegotiate (n : Attempt) : s.ctl = .delay .negotiate → s.w.attempt = some n →
      StepTo s (tryNegotiate (n + 1) (delayUs 10000 s))
  | setMode : s.ctl = .setMode → StepTo s { s with
      mode := .sdhc, ctl := .block .probe .check
      w := { s.w with sector := some Params.probeSector, buf := some .scratch } }
  | notReady (o : Owner) : s.ctl = .block o .check → s.mode = .none → StepTo s (raiseFault .notReady s)
  | checked (o : Owner) : s.ctl = .block o .check → s.mode ≠ .none → StepTo s { s with ctl := .block o .zero }
  | zeroed (o : Owner) (b : Buf) (t : State) : s.ctl = .block o .zero → s.w.buf = some b →
      memWrite b 0 512 0x00 { s with ctl := .block o .arg } = .next t → StepTo s t
  | framed (o : Owner) (x a : U32) : s.ctl = .block o .arg → s.w.sector = some x → wireArg s.mode x = .ok a →
      StepTo s (callFrame (.block o) Params.readIndex a s)
  | noArg (o : Owner) (x : U32) (n : FaultName) : s.ctl = .block o .arg → s.w.sector = some x →
      wireArg s.mode x = .error n → StepTo s (raiseFault n s)
  | dataCsLow (o : Owner) : s.ctl = .block o .dataCsLow →
      StepTo s { setCs .low s with w := { s.w with poll := some 1 }, ctl := .block o .tokenPoll }
  | tokenFound (o : Owner) : s.ctl = .block o .tokenPoll → nextByte s = Params.dataToken →
      StepTo s (tokenFound o (xfer 0xFF s))
  | tokenMissed (o : Owner) (p : Poll) : s.ctl = .block o .tokenPoll → nextByte s ≠ Params.dataToken →
      s.w.poll = some p → p.toNat < 10000 →
      StepTo s { xfer 0xFF s with w := { s.w with poll := some (p + 1) }, ctl := .block o .tokenPoll }
  | noToken (o : Owner) (p : Poll) : s.ctl = .block o .tokenPoll → nextByte s ≠ Params.dataToken →
      s.w.poll = some p → 10000 ≤ p.toNat → StepTo s { xfer 0xFF s with ctl := .block o (.dataCsHigh false) }
  | data (o : Owner) (i : StreamIndex) (b : Buf) (u : State) : s.ctl = .block o .data → s.w.i = some i → s.w.buf = some b →
      memWrite b i.toNat 1 (nextByte s) (xfer 0xFF s) = .next u →
      StepTo s { u with w := { s.w with i := some (i + 1) }, ctl := .block o (if i.toNat + 1 < 512 then .data else .crc) }
  | crc (o : Owner) (i : StreamIndex) : s.ctl = .block o .crc → s.w.i = some i → i.toNat + 1 < 514 →
      StepTo s { xfer 0xFF s with w := { s.w with i := some (i + 1) }, ctl := .block o .crc }
  | crcLast (o : Owner) (i : StreamIndex) : s.ctl = .block o .crc → s.w.i = some i → 514 ≤ i.toNat + 1 →
      StepTo s { xfer 0xFF s with ctl := .block o (.dataCsHigh true) }
  | close (o : Owner) (found : Bool) : s.ctl = .block o (.dataCsHigh found) →
      StepTo s (blockReturn o (if found then none else some .timeout) (setCs .high s))

  | unwritten (r : WorkReg) (l : Level) (es : List Event) (d : Nat) : s.ctl.reads r = true → s.w.holds r = false →
      es.length ≤ 6 →
      StepTo s (raiseFault (.unwrittenRegister r)
        { s with cs := l, trace := s.trace ++ es, card := s.card.drop d, draws := s.draws + d })

/-- The two bytes a class row and its byte are. -/
theorem notArrivedByte_of {b : Byte} (h : r1Arrived b = false) : notArrivedByte (b.setWidth 7) = b := by
  revert b; decide

theorem tokenByte_of {b : Byte} (h : r1Arrived b = true) : tokenByte (b.setWidth 7) = b := by revert b; decide

/-- A step at a Response Reader poll, by the byte on the bus. -/
theorem step_r1 {s : State} {c : Site} (h : s.ctl = .r1 c .pollCsLow) :
    step s = if r1Arrived (drawn s 0) then
        if drawn s 0 = Params.vendorByte then
          r1Return c (drawn s 1) (polled (polled s (drawn s 0)) (drawn s 1))
        else r1Return c (drawn s 0) (polled s (drawn s 0))
      else pollMissed c (drawn s 0) (polled s (drawn s 0)) := by
  simp only [step, fetch, h, decode, decodeR1, fetched, nextByte_eq_drawn, classifyR1]
  by_cases h1 : r1Arrived (drawn s 0) = true
  · by_cases h2 : drawn s 0 = Params.vendorByte
    · have e : drawn (polled s Params.vendorByte) 0 = drawn s 1 := by
        rw [← r1Exchange_eq_polled, drawn_r1Exchange]
      have h3 : r1Arrived Params.vendorByte = true := rfl
      simp [h2, h3, exec, execRxR1Vendor, atR1Poll_of h, r1Exchange_eq_polled, nextByte_eq_drawn, e]
    · simp [h1, h2, exec, execRxR1Token, atR1Poll_of h, r1Exchange_eq_polled, tokenByte_of h1]
  · have h1 : r1Arrived (drawn s 0) = false := by simpa using h1
    simp [h1, exec, execRxR1NotArrived, atR1Poll_of h, r1Exchange_eq_polled, notArrivedByte_of h1]

/-- A step at a token poll is the execution of that position. -/
theorem step_tokenPoll {s : State} {o : Owner} (h : s.ctl = .block o .tokenPoll) : step s = advance s := by
  simp only [step, fetch, h, decode, decodeData, fetched, classifyData, advance, advanceBlock, xfer]
  by_cases hb : nextByte s = Params.dataToken
  · simp [hb, exec, execRxDataToken, atTokenPoll_of h]
  · simp [hb, exec, execRxDataBusy, atTokenPoll_of h]

/-- A step at a FRAME call sends the frame of its two registers. -/
theorem step_frame {s : State} {c : Site} {x : Index} {a : U32} (h : s.ctl = .frame c .csLow) (hx : s.w.idx = some x)
    (ha : s.w.arg = some a) : step s = .next (enterReadR1 c (sentFrame s (Frame.build x a))) := by
  have hf : s.ctl ≠ .fault := by simp [h]
  have e : exec (frameRow x a) s = .next (frameProc x a s) := by
    unfold frameRow
    split_ifs with h1 h2 h3 h4 h5
    · simp [exec, execCmd17, unlessFaulted_of hf, h1]
    · simp [exec, execCmd0, unlessFaulted_of hf, h2.1, h2.2]
    · simp [exec, execCmd8, unlessFaulted_of hf, h3.1, h3.2]
    · simp [exec, execCmd55, unlessFaulted_of hf, h4.1, h4.2]
    · simp [exec, execAcmd41, unlessFaulted_of hf, h5.1, h5.2]
    · simp [exec, execCmdN, unlessFaulted_of hf]
  simp [step, fetch, h, fetchFrame, hx, ha, e, frameProc_at h]

/-- A request the decoder reads is one of the two. -/
theorem decodeHost_ok {bs rest : List Byte} {i : Instr} (h : decode .host bs = .ok i rest) :
    i = .init ∨ ∃ sector buf, i = .readSector sector buf := by
  simp only [decode] at h
  unfold decodeHost at h
  split at h
  · cases h
  · split_ifs at h
    · cases h; exact .inl rfl
    · split at h <;> cases h
      exact .inr ⟨_, _, rfl⟩

/-- A read, before anything else is done, of a register that holds no value. -/
theorem StepTo.unwritten_here {s t : State} {r : WorkReg} (hr : s.ctl.reads r = true) (hh : s.w.holds r = false)
    (ht : t = raiseFault (.unwrittenRegister r) s) : StepTo s t := by
  have e := StepTo.unwritten (s := s) r s.cs [] 0 hr hh (by simp)
  rw [ht]; simpa using e

/-- A read, after some events, of a register that holds no value: the state `u` in between is the state before but for
chip-select, the trace, the card and the working registers. -/
theorem StepTo.unwritten_after {s t u : State} {r : WorkReg} (hr : s.ctl.reads r = true) (hh : s.w.holds r = false)
    (l : Level) (es : List Event) (d : Nat) (hl : es.length ≤ 6)
    (hu : u = { s with cs := l, trace := s.trace ++ es, card := s.card.drop d, draws := s.draws + d, w := u.w })
    (ht : t = raiseFault (.unwrittenRegister r) u) : StepTo s t := by
  rw [ht, hu]; exact .unwritten r l es d hr hh hl

/-- READ_R1's return after events that leave the attempt counter alone is an answer, or finds no attempt counter. -/
theorem StepTo.of_return {s t u : State} {c : Site} {p : R1Pos} {r : Byte} (h : r1Return c r u = .next t)
    (hc : s.ctl = .r1 c p) (ew : u.w.attempt = s.w.attempt) (l : Level) (es : List Event) (d : Nat)
    (hl : es.length ≤ 6)
    (hu : u = { s with cs := l, trace := s.trace ++ es, card := s.card.drop d, draws := s.draws + d, w := u.w })
    (k : R1Answer u r c t → StepTo s t) : StepTo s t := by
  rcases r1Return_next h with h | ⟨h1, h2, ht⟩
  · exact k h
  · refine .unwritten_after (r := .attempt) ?_ ?_ l es d hl hu ht
    · rw [hc]; revert h1; cases c <;> cases p <;> exact id
    · rw [Work.holds, ← ew, h2]; rfl

/-- A poll's three events leave what `polled` says, of the card all but one byte. -/
theorem polled_eq (s : State) (b : Byte) : polled s b = { s with
    cs := .high, trace := s.trace ++ pollEvents b, card := s.card.drop 1, draws := s.draws + 1
    w := { s.w with tok := some b } } := by simp [polled]

/-- A step is one of the cases of `StepTo`. -/
theorem step_next {s t : State} (h : step s = .next t) : StepTo s t := by
  cases hc : s.ctl with
  | idle =>
    cases hd : decode .host s.port with
    | ok i rest =>
      simp only [step, fetch, hc, hd, fetched] at h
      rcases decodeHost_ok hd with rfl | ⟨x, b, rfl⟩
      · obtain ⟨-, rfl⟩ := whenIdle_next (by simpa only [exec, execInit] using h); exact .init rest hc hd
      · obtain ⟨-, rfl⟩ := whenIdle_next (by simpa only [exec, execReadSector] using h); exact .read x b rest hc hd
    | rejected e =>
      simp only [step, fetch, hc, hd, fetched] at h
      cases e <;> simp at h
      subst h
      refine .wait hc ?_
      cases hp : s.port with
      | nil => rfl
      | cons op rest =>
        rw [hp] at hd; simp only [decode, decodeHost] at hd
        split_ifs at hd
        · split at hd <;> cases hd
        · cases hd
  | fault => simp [step, fetch, hc] at h
  | power p =>
    replace h : advancePower p s = .next t := by simpa [step, fetch, hc, advance] using h
    cases p with
    | pwrOff => cases h; exact .pwrOff hc
    | waitOff => cases h; exact .waitOff hc
    | pwrOn => cases h; exact .pwrOn hc
    | waitOn => cases h; exact .waitOn hc
    | primeCsLow => cases h; exact .primeCsLow hc
    | primeCsHigh => cases h; exact .primeCsHigh hc
    | primeXfer k =>
      simp only [advancePower] at h; split at h <;> cases h
      · next hk => exact .primeXfer k hk hc
      · next hk => exact .primeLast k hc (Nat.le_of_not_lt hk)
  | delay d =>
    replace h : advanceDelay d s = .next t := by simpa [step, fetch, hc, advance] using h
    obtain ⟨n, hn, h⟩ | ⟨hn, h⟩ := needReg_next.1 h
    · cases d <;> cases h
      · exact .delayIfCond n hc hn
      · exact .delayNegotiate n hc hn
    · exact .unwritten_here (by rw [hc]; rfl) (by simp [Work.holds, hn]) h
  | setMode =>
    replace h : advanceSetMode s = .next t := by simpa [step, fetch, hc, advance] using h
    cases h; exact .setMode hc
  | frame c p =>
    cases p with
    | csLow =>
      cases hx : s.w.idx with
      | none =>
        replace h : advanceFrame c .csLow s = .next t := by simpa [step, fetch, hc, fetchFrame, hx, advance] using h
        obtain ⟨_, hx', -⟩ | ⟨-, h⟩ := needReg_next.1 h
        · rw [hx] at hx'; cases hx'
        · exact .unwritten_here (by rw [hc]; rfl) (by simp [Work.holds, hx]) h
      | some x =>
        cases ha : s.w.arg with
        | none =>
          replace h : advanceFrame c .csLow s = .next t := by simpa [step, fetch, hc, fetchFrame, hx, ha, advance] using h
          simp only [advanceFrame, hx, ha, needReg_some, needReg_none] at h; cases h
          exact .unwritten_here (by rw [hc]; rfl) (by simp [Work.holds, ha]) rfl
        | some a => rw [step_frame hc hx ha] at h; cases h; exact .frame c x a hc hx ha
    | xfer i =>
      replace h : advanceFrame c (.xfer i) s = .next t := by simpa [step, fetch, hc, advance] using h
      obtain ⟨f, hf, h⟩ | ⟨hf, h⟩ := needReg_next.1 h
      · simp only at h; split at h <;> cases h
        · next hi => exact .frameXfer c f i hi hc hf
        · next hi => exact .frameLast c f i hc (Nat.le_of_not_lt hi) hf
      · exact .unwritten_here (by rw [hc]; rfl) (by simp [Work.holds, hf]) h
    | csHigh =>
      replace h : advanceFrame c .csHigh s = .next t := by simpa [step, fetch, hc, advance] using h
      cases h; exact .frameClose c hc
  | r1 c p =>
    by_cases hp : p = .pollCsLow
    · subst hp
      rw [step_r1 hc] at h
      split_ifs at h with h1 h2
      · exact .of_return h hc rfl .high (pollEvents (drawn s 0) ++ pollEvents (drawn s 1)) 2 (by simp [pollEvents])
          (by simp [polled_eq, Nat.add_assoc]) (.vendor c t hc h2)
      · exact .of_return h hc rfl .high _ 1 (by simp [pollEvents]) (polled_eq s _) (.token c t hc h1 h2)
      · have h1 : r1Arrived (drawn s 0) = false := by simpa using h1
        obtain ⟨k, hk, h⟩ | ⟨hk, h⟩ := needReg_next.1 h
        · split at h
          · next hb => cases h; rw [← hc]; exact .missed c k hc h1 hk hb
          · next hb =>
            exact .of_return h hc rfl .high _ 1 (by simp [pollEvents]) (polled_eq s _)
              (.exhausted c k t hc h1 hk (Nat.le_of_not_lt hb))
        · exact .unwritten_after (r := .poll) (by rw [hc]; cases c <;> rfl)
            (by rw [Work.holds, show s.w.poll = none from hk]; rfl) .high _ 1 (by simp [pollEvents]) (polled_eq s _) h
    · replace h : advanceR1 c p s = .next t := by
        cases p <;> first | contradiction | simpa [step, fetch, hc, advance] using h
      cases p with
      | pollCsLow => contradiction
      | pollXfer => cases h; exact .pollXfer c hc
      | extraCsLow => cases h; exact .extraCsLow c hc
      | extraXfer => cases h; exact .extraXfer c hc
      | extraCsHigh =>
        obtain ⟨b, hb, h⟩ | ⟨hb, h⟩ := needReg_next.1 h
        · exact .of_return h hc rfl .high [.cs .high] 0 (by simp) (by simp [setCs, emit]) (.extraCsHigh c b t hc hb)
        · exact .unwritten_after (r := .tok) (by rw [hc]; cases c <;> rfl)
            (by rw [Work.holds, show s.w.tok = none from hb]; rfl) .high [.cs .high] 0 (by simp) (by simp [setCs, emit]) h
      | pollCsHigh =>
        obtain ⟨b, hb, h⟩ | ⟨hb, h⟩ := needReg_next.1 h
        · replace hb : s.w.tok = some b := hb
          split_ifs at h with h1 h2
          · cases h; exact .pollVendor c hc (by rw [hb, h2])
          · exact .of_return h hc rfl .high [.cs .high] 0 (by simp) (by simp [setCs, emit]) (.pollToken c b t hc hb h1 h2)
          · have h1 : r1Arrived b = false := by simpa using h1
            obtain ⟨k, hk, h⟩ | ⟨hk, h⟩ := needReg_next.1 h
            · split at h
              · next hk' => cases h; exact .pollMissed c b k hc hb h1 hk hk'
              · next hk' =>
                exact .of_return h hc rfl .high [.cs .high] 0 (by simp) (by simp [setCs, emit])
                  (.pollExhausted c b k t hc hb h1 hk (Nat.le_of_not_lt hk'))
            · exact .unwritten_after (r := .poll) (by rw [hc]; cases c <;> rfl)
                (by rw [Work.holds, show s.w.poll = none from hk]; rfl) .high [.cs .high] 0 (by simp) (by simp [setCs, emit]) h
        · exact .unwritten_after (r := .tok) (by rw [hc]; cases c <;> rfl)
            (by rw [Work.holds, show s.w.tok = none from hb]; rfl) .high [.cs .high] 0 (by simp) (by simp [setCs, emit]) h
  | block o p =>
    replace h : advanceBlock o p s = .next t := by
      by_cases hp : p = .tokenPoll
      · subst hp; rw [step_tokenPoll hc] at h; simpa [advance, hc] using h
      · cases p <;> first | contradiction | simpa [step, fetch, hc, advance] using h
    cases p with
    | check =>
      simp only [advanceBlock] at h; split at h <;> cases h
      · next hm => exact .notReady o hc hm
      · next hm => exact .checked o hc hm
    | zero =>
      obtain ⟨b, hb, h⟩ | ⟨hb, h⟩ := needReg_next.1 h
      · exact .zeroed o b t hc hb h
      · exact .unwritten_here (by rw [hc]; rfl) (by simp [Work.holds, hb]) h
    | arg =>
      obtain ⟨x, hx, h⟩ | ⟨hx, h⟩ := needReg_next.1 h
      · split at h <;> cases h
        · next a ha => exact .framed o x a hc hx ha
        · next n hn => exact .noArg o x n hc hx hn
      · exact .unwritten_here (by rw [hc]; rfl) (by simp [Work.holds, hx]) h
    | dataCsLow => cases h; exact .dataCsLow o hc
    | tokenPoll =>
      simp only [advanceBlock] at h; split at h
      · next hb => cases h; exact .tokenFound o hc hb
      · next hb =>
        obtain ⟨k, hk, h⟩ | ⟨hk, h⟩ := needReg_next.1 h
        · split at h <;> cases h
          · next hk' => exact .tokenMissed o k hc hb hk hk'
          · next hk' => exact .noToken o k hc hb hk (Nat.le_of_not_lt hk')
        · exact .unwritten_after (r := .poll) (by rw [hc]; rfl)
            (by rw [Work.holds, show s.w.poll = none from hk]; rfl) s.cs [.xfer 0xFF (nextByte s)] 1 (by simp) (by simp [xfer, receive, emit, Params.idleByte]) h
    | data =>
      obtain ⟨i, hi, h⟩ | ⟨hi, h⟩ := needReg_next.1 h
      · obtain ⟨b, hb, h⟩ | ⟨hb, h⟩ := needReg_next.1 h
        · simp only at h; split at h
          · next u hu =>
            cases h
            have e : u.w = s.w := by rw [(memWrite_next hu).2.1]; rfl
            rw [e]; exact .data o i b u hc hi hb hu
          all_goals cases h
        · exact .unwritten_here (by rw [hc]; rfl) (by simp [Work.holds, hb]) h
      · exact .unwritten_here (by rw [hc]; rfl) (by simp [Work.holds, hi]) h
    | crc =>
      obtain ⟨i, hi, h⟩ | ⟨hi, h⟩ := needReg_next.1 h
      · simp only at h; split at h <;> cases h
        · next hb => exact .crc o i hc hi hb
        · next hb => exact .crcLast o i hc hi (Nat.le_of_not_lt hb)
      · exact .unwritten_here (by rw [hc]; rfl) (by simp [Work.holds, hi]) h
    | dataCsHigh f => cases h; exact .close o f hc

end Sys2Proof.Machine
end

