-- ==== Sys2Proof/Laws/Safety.lean ====
section
/-! SUPPORT. The laws of the terms the statements use: the bracket scan over an appended trace, what the answers of READ_R1
leave alone, and how much of a request they leave. -/

namespace Sys2Proof.Machine

/-- The canonical form holds at reset, of both memories. -/
theorem reset_mem_wf : Mem.wf State.reset.mem = true ∧ Mem.wf State.reset.scratch = true := ⟨rfl, rfl⟩

/-- A trace is bracketed piece by piece. -/
theorem bracketScan_append (l : Level) (a b : List Event) :
    bracketScan l (a ++ b) = (bracketScan l a).bind fun m => bracketScan m b := by
  induction a generalizing l with
  | nil => rfl
  | cons e a ih =>
    cases l <;> cases e with
    | cs x => cases x <;> simp [bracketScan, ih]
    | _ => simp [bracketScan, ih]

/-- No answer of READ_R1 records an event or drives chip-select. -/
theorem R1Answer.trace_cs {u t : State} {c : Site} {r : Byte} (h : R1Answer u r c t) :
    t.trace = u.trace ∧ t.cs = u.cs := by
  cases h <;> simp [tryIfCond, tryGoIdle, tryNegotiate]

/-- The operands of a block read are the registers `sector` and `buf` alone. -/
theorem Work.readOf_congr {w w' : Work} (h1 : w'.sector = w.sector) (h2 : w'.buf = w.buf) {o : Owner} (h : w.readOf o) :
    w'.readOf o := by cases o <;> simpa only [Work.readOf, h1, h2] using h

/-- What a site's caller needs are the registers `attempt`, `sector` and `buf` alone. -/
theorem Site.regs_congr {c : Site} {w w' : Work} (h1 : w'.attempt = w.attempt) (h2 : w'.sector = w.sector)
    (h3 : w'.buf = w.buf) (h : c.regs w) : c.regs w' := by
  cases c with
  | block o => exact Work.readOf_congr h2 h3 h
  | _ => simpa only [Site.regs, Work.attemptIn, h1] using h

/-- In a legal state every register that a step may read holds a value (R28). -/
theorem Inv.holds {s : State} (hi : Inv s) {r : WorkReg} (hr : s.ctl.reads r = true) : s.w.holds r = true := by
  have h := hi.regs
  cases hc : s.ctl with
  | frame c p =>
    rw [hc] at hr h
    obtain ⟨⟨hx, a, ha, -, hf⟩, -⟩ := h
    cases p <;> cases r <;> first | cases hr; done | simp_all [Work.holds]
  | r1 c p =>
    rw [hc] at hr h
    obtain ⟨⟨⟨k, hk, -⟩, ht⟩, hg⟩ := h
    cases r with
    | attempt =>
      cases c with
      | app55 => cases p <;> cases hr
      | block o => cases p <;> cases hr
      | _ => obtain ⟨n, hn, -⟩ := hg; simp [Work.holds, hn]
    | poll => simp [Work.holds, hk]
    | tok =>
      cases p with
      | pollCsHigh => obtain ⟨b, hb⟩ := ht (.inl rfl); simp [Work.holds, hb]
      | extraCsHigh => obtain ⟨b, hb⟩ := ht (.inr rfl); simp [Work.holds, hb]
      | _ => cases c <;> cases hr
    | _ => cases c <;> cases p <;> cases hr
  | delay d =>
    rw [hc] at hr h
    cases d <;> obtain ⟨n, hn, -⟩ := h <;> cases r <;> first | cases hr; done | simp [Work.holds, hn]
  | block o p =>
    rw [hc] at hr h
    have hb : (∃ x, s.w.sector = some x) ∧ ∃ b, s.w.buf = some b := by
      cases o with
      | probe => exact ⟨⟨_, h.1.1⟩, _, h.1.2⟩
      | host => obtain ⟨⟨h1, b, h2⟩, -⟩ := h; exact ⟨h1, _, h2⟩
    obtain ⟨⟨x, hx⟩, b, hb⟩ := hb
    cases p <;> cases r <;> first | cases hr; done | simp [Work.holds, hx, hb]; done | skip
    all_goals obtain ⟨n, hn, -⟩ := h.2; simp [Work.holds, hn]
  | _ => rw [hc] at hr; cases r <;> cases hr

/-- An answer of READ_R1 leaves no more events, silent steps counted, than its site had left. -/
theorem R1Answer.left_le {u t : State} {c : Site} {r : Byte} (h : R1Answer u r c t) (hr : c.regs u.w) :
    eventsLeft t + silentLeft t.ctl ≤ afterSite c u.w.attemptNo + silentLeft (.r1 c .pollCsLow) ∧
      eventsLeft t ≤ afterSite c u.w.attemptNo := by
  cases h
  case goIdleOk =>
    simp [tryIfCond, eventsLeft, afterSite, silentLeft, frameEventsLeft, Work.attemptNo]
    unfold ifCondEvents; generalize Params.ifCondBudget = C; omega
  case goIdleAgain n _ hn hlt =>
    replace hlt : n.toNat < Params.goIdleBudget := hlt
    have e := attempt_succ (n := n) (Nat.lt_trans hlt (by decide))
    simp only [tryGoIdle, eventsLeft, afterSite, silentLeft, frameEventsLeft, Work.attemptNo, callFrame_ctl, callFrame_w,
      setAttempt_w, Option.getD_some, hn, e]
    omega
  case ifCondOk =>
    simp [tryNegotiate, eventsLeft, afterSite, silentLeft, frameEventsLeft, Work.attemptNo]
    unfold negotiateEvents; generalize Params.negotiateBudget = C; omega
  case app55 => simp [eventsLeft, afterSite, silentLeft, frameEventsLeft, Work.attemptNo]
  all_goals simp [eventsLeft, afterSite, silentLeft, blockEventsLeft]

end Sys2Proof.Machine
end

