-- ==== Sys2Proof/Tests/Slice0.lean ====
section
/-! SUPPORT. Tests: ill-formed terms refused, words of the opcode table decoded, single steps against the spec's worked
examples, and for every statement with hypotheses a state and operands that meet them. -/

namespace Sys2Proof.Tests
open Sys2Proof Sys2Proof.Machine

/-! ### Helpers -/

/-- The state after reset with control at a position. -/
def at_ (c : Ctl) : State := { State.reset with ctl := c }

/-- The state after reset with control at a position, some working registers, and bytes of the card to come. -/
def atW (c : Ctl) (w : Work) (card : List Byte) : State := { State.reset with ctl := c, w := w, card := card }

/-- The registers of a read in progress: sector, buffer, poll and index. -/
def readRegs (sector buf : U32) (poll : Poll) (i : StreamIndex) : Work :=
  { Work.empty with sector := some sector, buf := some (.caller buf), poll := some poll, i := some i }

/-- The registers of a bring-up exchange in progress: attempt and poll. -/
def tryRegs (attempt : Attempt) (poll : Poll) : Work := { Work.empty with attempt := some attempt, poll := some poll }

/-- The state a host read runs in: Mode SDHC, power on. -/
def ready (c : Ctl) (w : Work) (card : List Byte) : State :=
  { State.reset with mode := .sdhc, pwr := true, ctl := c, w := w, card := card, cs := c.level }

/-- The next state's part that a test looks at. -/
def after {α : Type} (o : Out) (f : State → α) : Option α :=
  match o with
  | .next t => some (f t)
  | _ => none

/-! ### WellFormed: an ill-formed term for each check -/

theorem test_wf_cmdN_not_cmd0 : (Instr.cmdN 0 0).wellFormed = false := by decide
theorem test_wf_cmdN_not_cmd8 : (Instr.cmdN 8 0x1AA).wellFormed = false := by decide
theorem test_wf_cmdN_not_cmd17 : (Instr.cmdN 17 7).wellFormed = false := by decide
theorem test_wf_cmdN_not_cmd55 : (Instr.cmdN 55 0).wellFormed = false := by decide
theorem test_wf_cmdN_not_acmd41 : (Instr.cmdN 41 0x40000000).wellFormed = false := by decide
theorem test_wf_token_not_vendor : (Instr.rxR1Token 0x1F).wellFormed = false := by decide
theorem test_wf_busy_not_token : (Instr.rxDataBusy 0xFE).wellFormed = false := by decide

/-! ### Decoding: words written out from spec/opcode_table.json, byte by byte, and what the table does not have -/

theorem test_decode_cmd0 : decode .frame [0b01000000, 0, 0, 0, 0, 0b10010101] = .ok .cmd0 [] := by decide
theorem test_decode_cmd8 : decode .frame [0b01001000, 0, 0, 0b00000001, 0b10101010, 0b10000111] = .ok .cmd8 [] := by
  decide
theorem test_decode_cmd17 :
    decode .frame [0b01010001, 0x12, 0x34, 0x56, 0x78, 0b00000001] = .ok (.cmd17 0x12345678) [] := by decide
theorem test_decode_cmd55 : decode .frame [0b01110111, 0, 0, 0, 0, 0b01100101] = .ok .cmd55 [] := by decide
theorem test_decode_acmd41 : decode .frame [0b01101001, 0b01000000, 0, 0, 0, 0b01110111] = .ok .acmd41 [] := by decide
theorem test_decode_cmdN : decode .frame [0b01000001, 0, 0, 0, 0, 0b11111001] = .ok (.cmdN 1 0) [] := by decide
theorem test_decode_init : decode .host [0b00000001] = .ok .init [] := by decide
theorem test_decode_readSector :
    decode .host [0b00000010, 0x12, 0x34, 0x56, 0x78, 0, 0, 0, 9] = .ok (.readSector 0x12345678 9) [] := by decide
theorem test_decode_notArrived : decode .r1 [0b10000001] = .ok (.rxR1NotArrived 1) [] := by decide
theorem test_decode_vendor : decode .r1 [0b00011111] = .ok .rxR1Vendor [] := by decide
theorem test_decode_token : decode .r1 [0b01111110] = .ok (.rxR1Token 0x7E) [] := by decide
theorem test_decode_dataToken : decode .data [0b11111110] = .ok .rxDataToken [] := by decide
theorem test_decode_dataBusy : decode .data [0b00011111] = .ok (.rxDataBusy 0x1F) [] := by decide

/-- Byte 0 with bits 7..6 other than 01 is no frame's first byte (R72). -/
theorem test_decode_bad_start : decode .frame [0x80, 0, 0, 0, 0, 0x95] = .rejected .badStartBits := by decide
/-- Bit 0 of the last byte is the stop bit (R73). -/
theorem test_decode_bad_stop : decode .frame [0x51, 0, 0, 0, 5, 0x0E] = .rejected .badStopBit := by decide
/-- Index 8 has the literal 0x87 and no other checksum byte (R104). -/
theorem test_decode_bad_literal : decode .frame [0x48, 0, 0, 1, 0xAA, 0x95] = .rejected .badLiteral := by decide
theorem test_decode_short_frame : decode .frame [0x40, 0, 0, 0, 0] = .rejected .truncated := by decide
theorem test_decode_short_request : decode .host [2, 0, 0, 0, 5, 0, 0, 0] = .rejected .truncated := by decide

/-- The table's own numbers: `match` of CMD8 and of RX_R1_VENDOR. -/
theorem test_table_word :
    decodeTableWord 48 0x48000001AA87 = some .cmd8 ∧ decodeTableWord 8 0x1F = some .rxR1Vendor := by decide

/-- A placed instruction is the one the next step fetches. -/
theorem test_withFetchWord :
    after (step (State.withFetchWord State.reset 8 0xFE)) (fun t => (t.ctl, t.w.i)) =
      some (.block .host .data, some 0) := by decide

/-! ### Single steps -/

/-- R107's worked example. -/
theorem test_cmd0_trace :
    after (exec .cmd0 (atW (.frame .goIdle .csLow) Work.empty [1, 2, 3, 4, 5, 6])) State.trace =
      some [.cs .low, .xfer 0x40 1, .xfer 0 2, .xfer 0 3, .xfer 0 4, .xfer 0 5, .xfer 0x95 6, .cs .high] := by decide
/-- R108's worked example. -/
theorem test_cmd8_trace :
    after (exec .cmd8 (atW (.frame .ifCond .csLow) Work.empty [1, 2, 3, 4, 5, 6])) State.trace =
      some [.cs .low, .xfer 0x48 1, .xfer 0 2, .xfer 0 3, .xfer 1 4, .xfer 0xAA 5, .xfer 0x87 6, .cs .high] := by decide
/-- R109: the wire argument is big-endian after 51. -/
theorem test_cmd17_bytes :
    after (exec (.cmd17 0x12345678) (ready (.frame (.block .host) .csLow) Work.empty [])) (fun t =>
      t.w.frame.map fun f => [f.b0, f.b1, f.b2, f.b3, f.b4]) = some (some [0x51, 0x12, 0x34, 0x56, 0x78]) := by decide
/-- R110 and R138: CMD55's READ_R1 follows. -/
theorem test_cmd55_then_r1 :
    after (exec .cmd55 (at_ (.frame .app55 .csLow))) (fun t => (t.ctl, t.w.poll)) =
      some (.r1 .app55 .pollCsLow, some 1) := by decide
/-- R111: bit 30 of the argument is set and no other. -/
theorem test_acmd41_bytes :
    after (exec .acmd41 (at_ (.frame .acmd41 .csLow))) (fun t =>
      t.w.frame.map fun f => [f.b0, f.b1, f.b2, f.b3, f.b4]) = some (some [0x69, 0x40, 0, 0, 0]) := by decide
/-- R113: index 0 with another argument still gets 0x95. -/
theorem test_cmdN_literal :
    after (exec (.cmdN 0 0xFFFFFFFF) (at_ (.frame .goIdle .csLow))) (fun t =>
      t.w.frame.map fun f => [f.b0, f.b1, f.b5]) = some (some [0x40, 0xFF, 0x95]) := by decide
/-- R101: index 63 starts with 7F; the framer alone leaves control idle, and by R28 no register with a value. -/
theorem test_cmdN_alone :
    after (exec (.cmdN 63 0) { State.reset with card := [7] }) (fun t =>
      (t.trace.take 2, t.trace.length, t.ctl, t.cs, t.w)) =
      some ([.cs .low, .xfer 0x7F 7], 8, .idle, .high, Work.empty) := by decide
/-- R151: INIT clears an earlier SDHC before any event. -/
theorem test_init_clears_mode :
    after (exec .init (ready .idle Work.empty [])) (fun t => (t.mode, t.trace, t.ctl)) =
      some (.none, [], .power .pwrOff) := by decide
/-- R37: a busy engine accepts no request. -/
theorem test_readSector_busy :
    exec (.readSector 5 0) (at_ .setMode) = .refused .portBusy := rfl
/-- R191, and R28 with R230: the fault ends the request, so no working register holds a value after it. -/
theorem test_notReady_ends_request :
    after (step (atW (.block .host .check) (readRegs 5 9 0 0) [])) (fun t => (t.ctl, t.fault, t.w, t.trace)) =
      some (.fault, some .notReady, Work.empty, []) := by decide
theorem test_readSector_regs :
    after (exec (.readSector 5 9) (ready .idle Work.empty [])) (fun t => (t.w.sector, t.w.buf, t.ctl)) =
      some (some 5, some (.caller 9), .block .host .check) := by decide
/-- R134: poll 100 ends the polls with a byte that has bit 7 set, which CMD17 rejects (R196). -/
theorem test_notArrived_budget :
    after (exec (.rxR1NotArrived 0x7F) (ready (.r1 (.block .host) .pollCsLow) (readRegs 5 0 100 0) [0xFF]))
      State.completions = some [.readErr (.cardRejected 0xFF)] := by decide
/-- R134: poll 99 does not. -/
theorem test_notArrived_again :
    after (exec (.rxR1NotArrived 0x7F) (atW (.r1 .goIdle .pollCsLow) (tryRegs 1 99) [0xFF]))
      (fun t => (t.ctl, t.w.poll)) = some (.r1 .goIdle .pollCsLow, some 100) := by decide
/-- R133: the extra byte is the token, unchecked, a second 0x1F included. -/
theorem test_vendor_unchecked :
    after (exec .rxR1Vendor (atW (.r1 .goIdle .pollCsLow) (tryRegs 1 100) [0x1F, 0x1F]))
      (fun t => (t.w.tok, t.ctl, t.w.attempt, t.trace.length)) =
      some (some 0x1F, .frame .goIdle .csLow, some 2, 6) := by decide
/-- R139's last exchanges: 0x1F and then 0x01, success for CMD0. -/
theorem test_vendor_then_idle :
    after (exec .rxR1Vendor (atW (.r1 .goIdle .pollCsLow) (tryRegs 1 3) [0x1F, 0x01]))
      (fun t => (t.w.tok, t.ctl)) = some (some 0x01, .frame .ifCond .csLow) := by decide
/-- R156: 0x05 is no success for CMD0. -/
theorem test_token_whole_byte :
    after (exec (.rxR1Token 5) (atW (.r1 .goIdle .pollCsLow) (tryRegs 1 1) [5])) (fun t => (t.ctl, t.w.attempt)) =
      some (.frame .goIdle .csLow, some 2) := by decide
/-- R28 and I10: a register without value is a model fault when it is read, after the poll's events and with no result. -/
theorem test_unwritten_register :
    after (exec (.rxR1Token 5) (at_ (.r1 .goIdle .pollCsLow))) (fun t =>
      (t.ctl, t.fault, t.w, t.trace.length, t.completions)) =
      some (.fault, some (.unwrittenRegister .attempt), Work.empty, 3, []) := by decide
/-- R163: 0x00 is success for ACMD41. -/
theorem test_token_ready :
    after (exec (.rxR1Token 0) (atW (.r1 .acmd41 .pollCsLow) (tryRegs 1000 1) [0])) State.ctl = some .setMode := by decide
/-- R198: the token is accepted on poll 10,000. -/
theorem test_dataToken_last_poll :
    after (exec .rxDataToken (ready (.block .host .tokenPoll) (readRegs 5 0 10000 0) [0xFE])) State.ctl =
      some (.block .host .data) := by decide
/-- R199: a busy byte at poll 10,000 ends the data phase. -/
theorem test_dataBusy_last_poll :
    after (exec (.rxDataBusy 0x00) (ready (.block .host .tokenPoll) (readRegs 5 0 10000 0) [0])) State.ctl =
      some (.block .host (.dataCsHigh false)) := by decide
/-- R85 and R240: FAULT answers no instruction. -/
theorem test_fault_stays :
    exec .cmd0 { at_ .fault with fault := some .notReady } = .fault (.halted (some .notReady)) := rfl

/-! ### Witnesses: the hypotheses of each statement are met together, each clause at a value of its own

The name after `test_witness_` is the statement's. -/

/-- A legal state of a bring-up exchange. -/
theorem inv_try (c : Site) (x : Index) (arg : U32) (n : Attempt) (hx : c.index = x)
    (hs : c.sends .none { tryRegs n 1 with idx := some x, arg := some arg } arg) (hr : c.regs (tryRegs n 1))
    (hb : c ≠ .block .probe ∧ c ≠ .block .host) :
    Inv { atW (.frame c .csLow) { tryRegs n 1 with idx := some x, arg := some arg } [] with pwr := true } where
  cs := rfl
  mark := by simp [atW, State.reset]
  mem := rfl
  scratch := rfl
  scratchSize := by simp [atW, State.reset]
  mode := by
    cases c with
    | block o => cases o <;> simp_all
    | _ => simp [modeOk, Ctl.reading, atW, State.reset]
  pwr := by simp [pwrOk, atW]
  regs := ⟨⟨by simp [atW, hx], arg, rfl, hs, .inl rfl⟩, by cases c <;> exact hr⟩

/-- A legal state of a read's FRAME call, of either owner. -/
theorem inv_read_frame (o : Owner) (x : U32) (b : Buf)
    (h : ({ Work.empty with sector := some x, buf := some b } : Work).readOf o) :
    Inv (ready (.frame (.block o) .csLow)
      { Work.empty with sector := some x, buf := some b, idx := some 17, arg := some x } []) where
  cs := rfl
  mark := by simp [ready, State.reset]
  mem := rfl
  scratch := rfl
  scratchSize := by simp [ready, State.reset]
  mode := by cases o <;> simp [modeOk, Ctl.reading, ready]
  pwr := by simp [pwrOk, ready]
  regs := ⟨⟨rfl, x, rfl, ⟨x, rfl, rfl⟩, .inl rfl⟩, by cases o <;> exact h⟩

/-- A legal idle state with Mode SDHC and bytes at the port. -/
theorem inv_idle (port : List Byte) : Inv { ready .idle Work.empty [] with port := port } where
  cs := rfl
  mark := by simp [ready, State.reset]
  mem := rfl
  scratch := rfl
  scratchSize := by simp [ready, State.reset]
  mode := by simp [modeOk, Ctl.reading, ready]
  pwr := by simp [pwrOk, ready]
  regs := rfl

/-- A legal busy state: INIT's first position. -/
theorem inv_busy : Inv (at_ (.power .pwrOff)) where
  cs := rfl
  mark := by simp [at_, State.reset]
  mem := rfl
  scratch := rfl
  scratchSize := by simp [at_, State.reset]
  mode := by simp [modeOk, Ctl.reading, at_, State.reset]
  pwr := trivial
  regs := rfl

theorem test_witness_IdleEngineWaitsForRequest : State.reset.ctl = .idle ∧ State.reset.port = [] := by decide

theorem test_witness_StepRunsDecodedInstruction :
    (State.reset.ctl = .idle ∧ decode .host [1] = .ok .init []) ∧
    decode .host (encode (.readSector 5 9) ++ [1]) = .ok (.readSector 5 9) [1] ∧
    (let s := atW (.frame .ifCond .csLow) { Work.empty with idx := some 8, arg := some 0x1AA } []
     s.ctl = .frame .ifCond .csLow ∧ s.w.idx = some 8 ∧ s.w.arg = some 0x1AA) ∧
    ((at_ (.frame .goIdle .csLow)).ctl = .frame .goIdle .csLow ∧ (at_ (.frame .goIdle .csLow)).w.idx = none) ∧
    (at_ (.r1 .goIdle .pollCsLow)).ctl = .r1 .goIdle .pollCsLow ∧
    (at_ (.block .host .tokenPoll)).ctl = .block .host .tokenPoll := by decide

theorem test_witness_StepRunsDecodedInstruction_position :
    let s := at_ .setMode
    s.ctl ≠ .idle ∧ s.ctl ≠ .fault ∧ (∀ c, s.ctl ≠ .frame c .csLow) ∧ (∀ c, s.ctl ≠ .r1 c .pollCsLow) ∧
      ∀ o, s.ctl ≠ .block o .tokenPoll := by simp [at_]

theorem test_witness_OtherRequestsAreRefused_opcode :
    let s (op : Byte) := { State.reset with port := [op] }
    ((s 0x00).ctl = .idle ∧ (s 0x00).port = [0x00] ∧ (0x00 : Byte) ≠ 1 ∧ (0x00 : Byte) ≠ 2) ∧
    ((s 0x03).port = [0x03] ∧ (0x03 : Byte) ≠ 1 ∧ (0x03 : Byte) ≠ 2) := by decide

theorem test_witness_DecodeOfEncode :
    (Instr.cmdN 0 1).wellFormed = true ∧ (Instr.cmdN 8 0x1AB).wellFormed = true ∧
    (Instr.cmdN 63 0xFFFFFFFF).wellFormed = true ∧ (Instr.cmd17 0xFFFFFFFF).wellFormed = true ∧
    (Instr.readSector 0xFFFFFFFF 0).wellFormed = true ∧ (Instr.rxR1Token 0x1E).wellFormed = true ∧
    (Instr.rxR1NotArrived 0).wellFormed = true ∧ (Instr.rxDataBusy 0xFF).wellFormed = true := by decide

theorem test_witness_DecodedIsWellFormed :
    decode .frame [0x77, 0, 0, 0, 0, 0x01] = .ok .cmd55 [] ∧ decode .r1 [0x20, 5] = .ok (.rxR1Token 0x20) [5] ∧
    decode .frame [0x40, 0, 0, 0, 1, 0x95] = .ok (.cmdN 0 1) [] ∧ decode .frame [0x48, 0, 0, 0, 0, 0x87] = .ok (.cmdN 8 0) [] ∧
    decode .data [0xFD] = .ok (.rxDataBusy 0xFD) [] ∧ decode .host [1, 2] = .ok .init [2] := by decide

/-- The hypotheses of the six `Cmd…SendsFrame` statements: at a FRAME call, of a bring-up site and of a block read. -/
theorem test_witness_CmdSendsFrame :
    (at_ (.frame .goIdle .csLow)).ctl = .frame .goIdle .csLow ∧
    (at_ (.frame (.block .probe) .csLow)).ctl = .frame (.block .probe) .csLow := by decide

theorem test_witness_FramerAloneSendsFrame :
    (Instr.cmdN 63 0).stream = .frame ∧ State.reset.ctl ≠ .fault ∧ (∀ c, State.reset.ctl ≠ .frame c .csLow) ∧
    State.reset.ctl = .idle ∧ (at_ .setMode).ctl ≠ .fault ∧ (∀ c, (at_ .setMode).ctl ≠ .frame c .csLow) ∧
    (at_ .setMode).ctl ≠ .idle := by
  simp [State.reset, Instr.stream, at_]

theorem test_witness_CmdNSendsFrame_indexes :
    (0 : Index) = 0 ∧ (8 : Index) = 8 ∧ (63 : Index) ≠ 0 ∧ (63 : Index) ≠ 8 := by decide

theorem test_witness_CommandsLeaveRestUnchanged :
    (Instr.cmdN 1 0).stream = .frame ∧ ∃ t, exec (.cmdN 1 0) State.reset = .next t := ⟨rfl, _, rfl⟩

theorem test_witness_EngineEmitsFiveCommands :
    (Inv { atW (.frame .goIdle .csLow) { tryRegs 100 1 with idx := some 0, arg := some 0 } [] with pwr := true }) ∧
    (Inv { atW (.frame .ifCond .csLow) { tryRegs 100 1 with idx := some 8, arg := some 0x1AA } [] with pwr := true }) ∧
    (Inv { atW (.frame .app55 .csLow) { tryRegs 1 1 with idx := some 55, arg := some 0 } [] with pwr := true }) ∧
    (Inv { atW (.frame .acmd41 .csLow) { tryRegs 1000 1 with idx := some 41, arg := some 0x40000000 } [] with
      pwr := true }) :=
  ⟨inv_try .goIdle 0 0 100 rfl rfl ⟨100, rfl, by decide, by decide⟩ (by decide),
    inv_try .ifCond 8 0x1AA 100 rfl rfl ⟨100, rfl, by decide, by decide⟩ (by decide),
    inv_try .app55 55 0 1 rfl rfl ⟨1, rfl, by decide, by decide⟩ (by decide),
    inv_try .acmd41 41 0x40000000 1000 rfl rfl ⟨1000, rfl, by decide, by decide⟩ (by decide)⟩

theorem test_witness_EngineEmitsFiveCommands_read :
    (Inv (ready (.frame (.block .host) .csLow)
      { Work.empty with sector := some 0xFFFFFFFF, buf := some (.caller 9), idx := some 17, arg := some 0xFFFFFFFF }
      [])) ∧
    (Inv (ready (.frame (.block .probe) .csLow)
      { Work.empty with sector := some 1, buf := some .scratch, idx := some 17, arg := some 1 } [])) :=
  ⟨inv_read_frame .host 0xFFFFFFFF (.caller 9) ⟨⟨_, rfl⟩, _, rfl⟩, inv_read_frame .probe 1 .scratch ⟨rfl, rfl⟩⟩

theorem test_witness_Acmd41OnlyAfterCmd55 :
    let s := atW (.r1 .app55 .pollCsLow) (tryRegs 1 1) [1]
    s.ctl ≠ .frame .acmd41 .csLow ∧ ∃ t, step s = .next t ∧ t.ctl = .frame .acmd41 .csLow := by
  exact ⟨by decide, _, rfl, rfl⟩

/-- The idle engine, right after reset and in Mode SDHC. -/
theorem test_witness_RequestsAreAccepted : State.reset.ctl = .idle ∧ (ready .idle Work.empty []).ctl = .idle := by decide

theorem test_witness_OtherRequestsAreRefused_busy :
    (at_ .setMode).ctl ≠ .idle ∧ (at_ .setMode).ctl ≠ .fault := by decide

/-- FAULT, and a step into it for each of the three model faults. -/
theorem test_witness_FaultIsEnteredByModelFaultAndNeverLeft :
    (at_ .fault).ctl = .fault ∧
    after (step (at_ (.block .host .check))) (fun t => (t.ctl, t.fault)) = some (.fault, some .notReady) ∧
    after (step { ready (.block .host .arg) (readRegs 8388608 9 1 0) [] with mode := .sdsc }) (fun t => (t.ctl, t.fault)) =
      some (.fault, some .sdscArgOverflow) ∧
    after (step (at_ (.frame .goIdle .csLow))) (fun t => (t.ctl, t.fault)) =
      some (.fault, some (.unwrittenRegister .idx)) := by decide

theorem test_witness_NotArrivedPollsAgain :
    let s := atW (.r1 .goIdle .pollCsLow) (tryRegs 1 99) []
    s.ctl = .r1 .goIdle .pollCsLow ∧ s.w.poll = some 99 ∧ (99 : Poll).toNat < 100 := by decide

theorem test_witness_ReadR1Returns :
    let s := atW (.r1 .app55 .pollCsLow) (tryRegs 1 100) []
    s.ctl = .r1 .app55 .pollCsLow ∧ (0x1E : BitVec 7) ≠ 0x1F ∧ s.w.poll = some 100 := by decide

theorem test_witness_ReadR1ClassesComplete :
    let s := atW (.r1 .goIdle .pollCsLow) (tryRegs 100 100) []
    s.ctl = .r1 .goIdle .pollCsLow ∧ Site.goIdle.regs s.w ∧ s.w.pollIn 100 ∧ (0x20 : BitVec 7) ≠ 0x1F :=
  ⟨rfl, ⟨100, rfl, by decide, by decide⟩, ⟨100, rfl, by decide, by decide⟩, by decide⟩

theorem test_witness_ReadR1ClassesComplete_read :
    (Site.block .probe).regs { Work.empty with sector := some 1, buf := some .scratch, poll := some 1 } := ⟨rfl, rfl⟩

theorem test_witness_ReadR1ClassesLeaveRestUnchanged :
    Instr.rxR1Vendor.stream = .r1 ∧
    (∃ t, exec .rxR1Vendor (atW (.r1 .app55 .pollCsLow) (tryRegs 1 1) [0x1F, 0xFF]) = .next t ∧ t.ctl ≠ .idle) ∧
    (∃ t, exec (.rxR1Token 4) (ready (.r1 (.block .probe) .pollCsLow) (tryRegs 1 1) [4]) = .next t ∧ t.ctl = .idle) ∧
    (∃ t, exec (.rxR1Token 4) (at_ (.r1 .ifCond .pollCsLow)) = .next t ∧ t.ctl = .fault) :=
  ⟨rfl, ⟨_, rfl, by decide⟩, ⟨_, rfl, rfl⟩, ⟨_, rfl, rfl⟩⟩

theorem test_witness_TokenPollAnswer :
    let s (p : Poll) := ready (.block .probe .tokenPoll) (readRegs 1 0 p 0) []
    (s 1).ctl = .block .probe .tokenPoll ∧ ((s 9999).w.poll = some 9999 ∧ (0xFF : Byte) ≠ 0xFE ∧ (9999 : Poll).toNat < 10000) ∧
      (s 10000).w.poll = some 10000 ∧ (at_ (.block .probe .tokenPoll)).w.poll = none := by decide

theorem test_witness_ReceivedByteOutsidePollIsRefused :
    State.reset.ctl ≠ .fault ∧ (∀ c, State.reset.ctl ≠ .r1 c .pollCsLow) ∧ (Instr.rxR1Token 0).stream = .r1 ∧
    (∀ o, State.reset.ctl ≠ .block o .tokenPoll) ∧ Instr.rxDataToken.stream = .data := by
  simp [State.reset, Instr.stream]

/-- The hypotheses of `GoIdleAnswer` and `CheckInterfaceAnswer`. -/
theorem test_witness_IdleBitAnswers :
    (atW .idle (tryRegs 99 1) []).w.attempt = some 99 ∧ (0x00 : Byte) ≠ 0x01 ∧ (99 : Attempt).toNat < 100 ∧
    (atW .idle (tryRegs 100 1) []).w.attempt = some 100 ∧ (0x01 : Byte) = 0x01 := by decide

theorem test_witness_NegotiateCapacityAnswer :
    (atW .idle (tryRegs 999 1) []).w.attempt = some 999 ∧ (0x01 : Byte) ≠ 0x00 ∧ (999 : Attempt).toNat < 1000 ∧
    (atW .idle (tryRegs 1000 1) []).w.attempt = some 1000 ∧ (0x00 : Byte) = 0x00 := by decide

theorem test_witness_BlockReadAnswer : (0x00 : Byte) = 0x00 ∧ (0x01 : Byte) ≠ 0x00 ∧ (0xFF : Byte) ≠ 0x00 := by decide

theorem test_witness_PowerCycleRuns : (at_ (.power .pwrOff)).ctl = .power .pwrOff := rfl

theorem test_witness_RetryDelayThenNextAttempt :
    (let s := atW (.delay .ifCond) (tryRegs 99 1) []; s.w.attempt = some 99 ∧ s.ctl = .delay .ifCond) ∧
    (let s := atW (.delay .negotiate) (tryRegs 999 1) []; s.w.attempt = some 999 ∧ s.ctl = .delay .negotiate) := by
  decide

theorem test_witness_ProbeModeFixesSdhc : (at_ .setMode).ctl = .setMode := rfl

theorem test_witness_NoneModeRaisesNotReady :
    (at_ (.block .host .check)).ctl = .block .host .check ∧ (at_ (.block .host .check)).mode = .none ∧
    (ready (.block .probe .check) Work.empty []).ctl = .block .probe .check ∧
    (ready (.block .probe .check) Work.empty []).mode ≠ .none := by decide

theorem test_witness_ZeroFillClearsBuffer :
    let s := ready (.block .host .zero) (readRegs 5 9 1 0) []
    s.ctl = .block .host .zero ∧ s.w.buf = some (.caller 9) ∧ 511 < 512 ∧ Buf.scratch ≠ .caller 9 := by decide

theorem test_witness_WireArgumentByMode :
    let s (m : Mode) (x : U32) := { ready (.block .host .arg) (readRegs x 9 1 0) [] with mode := m }
    ((s .sdhc 5).ctl = .block .host .arg ∧ (s .sdhc 5).w.sector = some 5 ∧ (s .sdhc 5).mode = .sdhc) ∧
    ((s .sdsc 8388607).mode = .sdsc ∧ (8388607 : U32).toNat < 2 ^ 23) ∧
    ((s .sdsc 8388608).mode = .sdsc ∧ 2 ^ 23 ≤ (8388608 : U32).toNat) := by decide

theorem test_witness_DataByteGoesToItsOffset :
    let s (i : StreamIndex) := ready (.block .host .data) (readRegs 5 9 1 i) []
    ((s 0).ctl = .block .host .data ∧ (s 0).w.buf = some (.caller 9) ∧ (s 0).w.i = some 0 ∧ (0 : StreamIndex).toNat < 512) ∧
    ((s 511).w.i = some 511 ∧ (511 : StreamIndex).toNat < 512 ∧
      (Buf.caller 9 ≠ .caller 9 ∨ 510 ≠ (511 : StreamIndex).toNat)) := by decide

theorem test_witness_DataStreamFillsBuffer :
    let s := ready (.block .host .data) (readRegs 5 9 1 0) []
    s.ctl = .block .host .data ∧ s.w.buf = some (.caller 9) ∧ s.w.i = some 0 := by decide

theorem test_witness_ChecksumBytesThenOk :
    let s := ready (.block .probe .crc) (readRegs 1 0 1 512) []
    s.ctl = .block .probe .crc ∧ s.w.i = some 512 := by decide

theorem test_witness_NoTokenIsTimeout :
    (ready (.block .host (.dataCsHigh false)) Work.empty []).ctl = .block .host (.dataCsHigh false) ∧
    (ready (.block .probe (.dataCsHigh false)) Work.empty []).ctl = .block .probe (.dataCsHigh false) := by decide

/-- A step each of the three writers of Mode, and one that writes nothing. -/
theorem test_witness_ModeHasThreeWriters :
    (∃ t, step { ready .idle Work.empty [] with port := [1] } = .next t ∧ t.mode = .none) ∧
    (∃ t, step (at_ .setMode) = .next t ∧ t.mode = .sdhc) ∧
    (∃ t, step (ready (.block .probe (.dataCsHigh false)) Work.empty []) = .next t ∧ t.mode = .none) ∧
    (∃ t, step (ready (.block .host .check) Work.empty []) = .next t ∧ t.mode = .sdhc) ∧
    (ready (.block .host .check) Work.empty []).ctl.top = .readBusy :=
  ⟨⟨_, rfl, rfl⟩, ⟨_, rfl, rfl⟩, ⟨_, rfl, rfl⟩, ⟨_, rfl, rfl⟩, rfl⟩

theorem test_witness_PowerHasOneWriter :
    (∃ t, step { at_ (.power .pwrOff) with pwr := true } = .next t ∧ t.pwr ≠ true) ∧
    (∃ t, step { at_ (.power .pwrOn) with pwr := false } = .next t ∧ t.pwr ≠ false) :=
  ⟨⟨_, rfl, by decide⟩, ⟨_, rfl, by decide⟩⟩

theorem test_witness_TraceOnlyGrows : ∃ t, step (at_ (.power .waitOff)) = .next t ∧ t.trace ≠ [] :=
  ⟨_, rfl, by simp [delayUs, emit]⟩

theorem test_witness_OnlyTheRequestsBufferIsWritten :
    let s := ready (.block .host .data) (readRegs 5 9 1 511) [0xAA]
    ∃ t, step s = .next t ∧ 511 < 512 ∧ bufRead (.caller 9) 511 t ≠ bufRead (.caller 9) 511 s :=
  ⟨_, rfl, by decide, by decide⟩

theorem test_witness_BuffersAreNeverRead :
    let s := ready (.block .host .data) (readRegs 5 9 1 0) []
    let t := { s with mem := [(4608, 7)], scratch := [(0, 1)] }
    s ≠ t ∧ s.blind = t.blind := by decide

theorem test_witness_OneResultPerRequest :
    (∃ t, step (ready (.block .host (.dataCsHigh true)) Work.empty []) = .next t ∧ t.ctl = .idle) ∧
    (∃ t, step State.reset = .next t) := ⟨⟨_, rfl, rfl⟩, ⟨_, rfl⟩⟩

theorem test_witness_StepIsPositionsInSequence :
    (at_ .fault).ctl ≠ .idle ∧ (at_ (.r1 .goIdle .pollCsLow)).ctl ≠ .idle := by decide

theorem test_witness_UnansweredPollsRun :
    let s := atW (.r1 .ifCond .pollCsLow) (tryRegs 1 1) (List.replicate 99 0xFF)
    s.ctl = .r1 .ifCond .pollCsLow ∧ s.w.poll = some 1 ∧ 99 ≤ 99 ∧ ∀ m, m < 99 → (drawn s m).getLsbD 7 = true := by
  decide

theorem test_witness_StepKeepsLegalStates :
    Inv (at_ (.power .pwrOff)) ∧ ∃ t, step (at_ (.power .pwrOff)) = .next t := ⟨inv_busy, _, rfl⟩

theorem test_witness_LegalStatesNeverStop :
    (Inv (at_ (.power .pwrOff)) ∧ (at_ (.power .pwrOff)).ctl ≠ .fault ∧ (at_ (.power .pwrOff)).ctl ≠ .idle) ∧
    (Inv { ready .idle Work.empty [] with port := [1] } ∧ ∃ i rest, decode .host [1] = .ok i rest) ∧
    Inv { ready .idle Work.empty [] with port := [] } :=
  ⟨⟨inv_busy, by decide, by decide⟩, ⟨inv_idle [1], .init, [], by decide⟩, inv_idle []⟩

theorem test_witness_StepKeepsBrackets :
    Inv (at_ (.power .pwrOff)) ∧ Bracketed (at_ (.power .pwrOff)) ∧ ∃ t, step (at_ (.power .pwrOff)) = .next t :=
  ⟨inv_busy, rfl, _, rfl⟩

/-- The hypotheses of `EventsAreBounded` and `RequestsTerminate`. -/
theorem test_witness_RunningRequest :
    Inv (at_ (.power .pwrOff)) ∧ (at_ (.power .pwrOff)).ctl ≠ .idle ∧ ∃ t, step (at_ (.power .pwrOff)) = .next t :=
  ⟨inv_busy, by decide, _, rfl⟩

theorem test_witness_InitEndsWithResult :
    let s := { ready .idle Work.empty [] with port := [1, 2] }
    Inv s ∧ s.ctl = .idle ∧ s.port = 0x01 :: [2] := ⟨inv_idle [1, 2], rfl, rfl⟩

theorem test_witness_ReadSectorEndsWithResult :
    let s := { ready .idle Work.empty [] with port := encode (.readSector 0xFFFFFFFF 9) ++ [1] }
    Inv s ∧ s.ctl = .idle ∧ s.mode = .sdhc ∧ s.port = encode (.readSector 0xFFFFFFFF 9) ++ [1] :=
  ⟨inv_idle _, rfl, rfl, rfl⟩

/-- R207's card, after six bytes received during the frame, with no byte left over. -/
theorem test_witness_ReadSectorReturnsData :
    let junk : List Byte := List.replicate 6 0xFF
    let data : List Byte := List.replicate 512 0xAA
    let s := { ready .idle Work.empty (junk ++ [0x00] ++ [] ++ [0xFE] ++ data ++ [0, 0] ++ []) with
      port := encode (.readSector 5 9) ++ [] }
    s.ctl = .idle ∧ s.mode = .sdhc ∧ s.port = encode (.readSector 5 9) ++ [] ∧
      s.card = junk ++ [0x00] ++ [] ++ [0xFE] ++ data ++ [0, 0] ++ [] ∧ junk.length = 6 ∧
      ([] : List Byte).length < 10000 ∧ (0xFE : Byte) ∉ ([] : List Byte) ∧ data.length = 512 ∧
      ([0, 0] : List Byte).length = 2 :=
  ⟨rfl, rfl, rfl, rfl, rfl, by decide, List.not_mem_nil, List.length_replicate, rfl⟩

end Sys2Proof.Tests
end

/-! SUPPORT and PROOFS of the statements about what a step is: the instruction decoded where the state fetches, the
positions it stands for, and the events it adds. -/

namespace Sys2Proof.Machine

/-! ### A frame's bytes decode to its row -/

theorem startByte_startBits (x : Index) : (startByte x).extractLsb' 6 2 = 1#2 := by revert x; decide

theorem startByte_index (x : Index) : (startByte x).extractLsb' 0 6 = x := by revert x; decide

/-- The stop bit of every frame's last byte (R74). -/
theorem checksum_stopBit (x : Index) (h : List Byte) : (checksum x h).getLsbD 0 = true := by
  simpa using congrArg (·.getLsbD 0) (Laws.RowMatch.checksum_odd x h)

theorem checksum_goIdle (h : List Byte) : checksum Params.goIdleIndex h = Params.cmd0Crc := rfl

theorem checksum_ifCond (h : List Byte) : checksum Params.ifCondIndex h = Params.cmd8Crc := rfl

/-- The big-endian bytes of a word are the word's (R14, R51). -/
theorem ofBe32_bytes (a : U32) :
    ofBe32 (a.extractLsb' 24 8) (a.extractLsb' 16 8) (a.extractLsb' 8 8) (a.extractLsb' 0 8) = a := by
  have h2 : a.extractLsb' 24 8 ++ a.extractLsb' 16 8 = a.extractLsb' 16 16 :=
    BitVec.extractLsb'_append_extractLsb'_eq_extractLsb' rfl
  have h3 : a.extractLsb' 16 16 ++ a.extractLsb' 8 8 = a.extractLsb' 8 24 :=
    BitVec.extractLsb'_append_extractLsb'_eq_extractLsb' rfl
  have h4 : a.extractLsb' 8 24 ++ a.extractLsb' 0 8 = a.extractLsb' 0 32 :=
    BitVec.extractLsb'_append_extractLsb'_eq_extractLsb' rfl
  rw [ofBe32, h2, h3, h4, BitVec.extractLsb'_eq_self]

/-- The frame of any index and argument decodes to the row those two belong to (R71, R76). -/
theorem decode_frameBytes (x : Index) (a : U32) (rest : List Byte) :
    decode .frame (frameBytes x a ++ rest) = .ok (frameRow x a) rest := by
  have h0 : ¬(x = Params.goIdleIndex ∧ checksum x (frameHead x a) ≠ Params.cmd0Crc) := by
    rintro ⟨rfl, h⟩; exact h (checksum_goIdle _)
  have h8 : ¬(x = Params.ifCondIndex ∧ checksum x (frameHead x a) ≠ Params.cmd8Crc) := by
    rintro ⟨rfl, h⟩; exact h (checksum_ifCond _)
  simp only [frameHead, be32] at h0 h8
  simp only [decode, frameBytes, frameHead, be32, List.cons_append, List.nil_append, decodeFrame, startByte_startBits,
    startByte_index, checksum_stopBit, ofBe32_bytes, h0, h8, if_false, ne_eq, not_true_eq_false, Bool.true_eq_false]

/-! ### A step, by what the state fetches -/

/-- At a FRAME call a step runs the row of the two registers. -/
theorem step_frame_exec {s : State} {c : Site} {x : Index} {a : U32} (h : s.ctl = .frame c .csLow)
    (hx : s.w.idx = some x) (ha : s.w.arg = some a) : step s = exec (frameRow x a) s := by
  simp only [step, fetch, h, fetchFrame, hx, ha]

/-- At a FRAME call whose index or argument holds no value, a step is the one position. -/
theorem step_frame_unwritten {s : State} {c : Site} (h : s.ctl = .frame c .csLow)
    (hn : s.w.idx = none ∨ s.w.arg = none) : step s = advance s := by
  have hp : fetchFrame s = .position := by
    rcases hn with hx | ha
    · simp only [fetchFrame, hx]
    · cases hx : s.w.idx <;> simp only [fetchFrame, hx, ha]
  simp only [step, fetch, h, hp]

/-- At every busy position but a FRAME call and the two polls, a step is the one position. -/
theorem step_eq_advance {s : State} (hi : s.ctl ≠ .idle) (hf : ∀ c, s.ctl ≠ .frame c .csLow)
    (hr : ∀ c, s.ctl ≠ .r1 c .pollCsLow) (ht : ∀ o, s.ctl ≠ .block o .tokenPoll) : step s = advance s := by
  cases hc : s.ctl with
  | idle => exact absurd hc hi
  | frame c p =>
    cases p with
    | csLow => exact absurd hc (hf c)
    | _ => simp only [step, fetch, hc]
  | r1 c p =>
    cases p with
    | pollCsLow => exact absurd hc (hr c)
    | _ => simp only [step, fetch, hc]
  | block o p =>
    cases p with
    | tokenPoll => exact absurd hc (ht o)
    | _ => simp only [step, fetch, hc]
  | _ => simp only [step, fetch, advance, hc]

/-- Settles O4: each clause is the branch of `fetch` at its position; the frame's row is what its bytes decode to. -/
theorem stepRunsDecodedInstruction : Obligations.StepRunsDecodedInstruction := by
  refine ⟨fun s i rest h hd => ?_, fun s c x a h hx ha => ?_, fun s c => step_frame_unwritten, fun s c h => ?_,
    fun s o h => ?_, fun s hi _ => step_eq_advance hi⟩
  · simp only [step, fetch, h, hd, fetched]
  · have hd : decode .frame (frameBytes x a) = .ok (frameRow x a) [] := by simpa using decode_frameBytes x a []
    exact ⟨frameRow x a, hd, step_frame_exec h hx ha⟩
  · exact ⟨classifyR1 (nextByte s), rfl, by simp only [step, fetch, h, decode, decodeR1, fetched]⟩
  · exact ⟨classifyData (nextByte s), rfl, by simp only [step, fetch, h, decode, decodeData, fetched]⟩

/-! ### Positions in sequence -/

theorem runPositions_one (s : State) : runPositions 1 s = advance s := by
  simp only [runPositions]
  cases advance s <;> rfl

theorem runPositions_succ {s t : State} (n : Nat) (h : advance s = .next t) :
    runPositions (n + 1) s = runPositions n t := by simp only [runPositions, h]

/-- A run of positions that goes on is continued from where it arrived. -/
theorem runPositions_add {m : Nat} {s t : State} (n : Nat) (h : runPositions m s = .next t) :
    runPositions (m + n) s = runPositions n t := by
  induction m generalizing s with
  | zero => cases h; rw [Nat.zero_add]
  | succ m ih =>
    simp only [runPositions, Nat.succ_add] at h ⊢
    cases ha : advance s with
    | next u => rw [ha] at h; exact ih h
    | fault f => rw [ha] at h; cases h
    | refused r => rw [ha] at h; cases h

/-! ### The eight positions of FRAME (R100) -/

theorem advance_frame_csLow {s : State} {c : Site} {x : Index} {a : U32} (h : s.ctl = .frame c .csLow)
    (hx : s.w.idx = some x) (ha : s.w.arg = some a) :
    advance s = .next { setCs .low (buildFrame x a s) with ctl := .frame c (.xfer 0) } := by
  simp only [advance, h, advanceFrame, hx, ha, needReg_some]

theorem advance_frame_xfer {s : State} {c : Site} {f : Frame} {i : Fin Params.frameLen} (hi : i.val + 1 < 6)
    (h : s.ctl = .frame c (.xfer i)) (hf : s.w.frame = some f) :
    advance s = .next { xfer (f.byte i) s with ctl := .frame c (.xfer ⟨i.val + 1, hi⟩) } := by
  simp only [advance, h, advanceFrame, hf, needReg_some, dif_pos hi]

theorem advance_frame_lastXfer {s : State} {c : Site} {f : Frame} (h : s.ctl = .frame c (.xfer 5))
    (hf : s.w.frame = some f) : advance s = .next { xfer f.b5 s with ctl := .frame c .csHigh } := by
  simp only [advance, h, advanceFrame, hf, needReg_some]; rfl

theorem advance_frame_csHigh {s : State} {c : Site} (h : s.ctl = .frame c .csHigh) :
    advance s = .next (enterReadR1 c (setCs .high s)) := by simp only [advance, h, advanceFrame]

/-- The six exchanges, one position each, are `sendFrame`. -/
theorem runPositions_frame_xfers {s : State} {c : Site} {f : Frame} (h : s.ctl = .frame c (.xfer 0))
    (hf : s.w.frame = some f) : runPositions 6 s = .next { sendFrame f s with ctl := .frame c .csHigh } := by
  refine .trans (runPositions_succ 5 (advance_frame_xfer (by decide) h hf)) ?_
  refine .trans (runPositions_succ 4 (advance_frame_xfer (by decide) rfl hf)) ?_
  refine .trans (runPositions_succ 3 (advance_frame_xfer (by decide) rfl hf)) ?_
  refine .trans (runPositions_succ 2 (advance_frame_xfer (by decide) rfl hf)) ?_
  refine .trans (runPositions_succ 1 (advance_frame_xfer (by decide) rfl hf)) ?_
  exact .trans (runPositions_one _) (advance_frame_lastXfer rfl hf)

/-- The eight positions of a FRAME call are the frame sent whole. -/
theorem runPositions_frame {s : State} {c : Site} {x : Index} {a : U32} (h : s.ctl = .frame c .csLow)
    (hx : s.w.idx = some x) (ha : s.w.arg = some a) : runPositions 8 s = .next (frameProc x a s) := by
  have hc : (setCs .high (sendFrame (Frame.build x a) (setCs .low (buildFrame x a s)))).ctl = .frame c .csLow := h
  calc runPositions 8 s
    _ = runPositions 7 { setCs .low (buildFrame x a s) with ctl := .frame c (.xfer 0) } :=
      runPositions_succ 7 (advance_frame_csLow h hx ha)
    _ = runPositions 1 _ := runPositions_add 1 (runPositions_frame_xfers rfl rfl)
    _ = .next (enterReadR1 c (setCs .high (sendFrame (Frame.build x a) (setCs .low (buildFrame x a s))))) := by
      rw [runPositions_one, advance_frame_csHigh rfl]; rfl
    _ = .next (frameProc x a s) := by rw [frameProc, frameReturn, hc]

/-! ### The three positions of a READ_R1 exchange (R130)

A step runs the exchange at its first position, the positions arrive at its last: what READ_R1 returns to does not
depend on which, for every answer writes the control state anew. -/

theorem r1Return_ctl (c : Site) (r : Byte) (s : State) (k : Ctl) :
    r1Return c r { s with ctl := k } = r1Return c r s := by
  cases c with
  | block o => cases o <;> rfl
  | _ => rfl

theorem pollMissed_ctl (c : Site) (r : Byte) (s : State) (k : Ctl) :
    pollMissed c r { s with ctl := k } = pollMissed c r s := by
  simp only [pollMissed, r1Return_ctl, needReg, raiseFault]

theorem setCs_high_r1Xfer (s : State) : setCs .high (r1Xfer (setCs .low s)) = polled s (drawn s 0) := by
  rw [← r1Exchange_eq_polled, ← nextByte_eq_drawn]; rfl

@[simp] theorem drawn_polled (s : State) (b : Byte) (n : Nat) : drawn (polled s b) n = drawn s (n + 1) := by
  rw [← r1Exchange_eq_polled, drawn_r1Exchange]

theorem advance_pollCsLow {s : State} {c : Site} (h : s.ctl = .r1 c .pollCsLow) :
    advance s = .next { setCs .low s with ctl := .r1 c .pollXfer } := by simp only [advance, h, advanceR1]

theorem advance_pollCsHigh {s : State} {c : Site} {b : Byte} (h : s.ctl = .r1 c .pollCsHigh) (hb : s.w.tok = some b) :
    advance s = if r1Arrived b then
        if b = Params.vendorByte then .next { setCs .high s with ctl := .r1 c .extraCsLow }
        else r1Return c b (setCs .high s)
      else pollMissed c b (setCs .high s) := by
  simp only [advance, h, advanceR1, setCs_w, hb, needReg_some]

theorem advance_extraCsLow {s : State} {c : Site} (h : s.ctl = .r1 c .extraCsLow) :
    advance s = .next { setCs .low s with ctl := .r1 c .extraXfer } := by simp only [advance, h, advanceR1]

theorem advance_extraCsHigh {s : State} {c : Site} {b : Byte} (h : s.ctl = .r1 c .extraCsHigh)
    (hb : s.w.tok = some b) : advance s = r1Return c b (setCs .high s) := by
  simp only [advance, h, advanceR1, setCs_w, hb, needReg_some]

/-- The three positions of a poll, by the byte on the bus. -/
theorem runPositions_poll {s : State} {c : Site} (h : s.ctl = .r1 c .pollCsLow) :
    runPositions 3 s = if r1Arrived (drawn s 0) then
        if drawn s 0 = Params.vendorByte then .next { polled s (drawn s 0) with ctl := .r1 c .extraCsLow }
        else r1Return c (drawn s 0) (polled s (drawn s 0))
      else pollMissed c (drawn s 0) (polled s (drawn s 0)) := by
  rw [runPositions_succ 2 (advance_pollCsLow h), runPositions_succ 1 rfl, runPositions_one, advance_pollCsHigh rfl rfl,
    ← r1Return_ctl c _ (polled s _) (.r1 c .pollCsHigh), ← pollMissed_ctl c _ (polled s _) (.r1 c .pollCsHigh),
    ← setCs_high_r1Xfer, ← nextByte_eq_drawn]
  rfl

/-- The three positions of the extra exchange after the vendor byte. -/
theorem runPositions_extra {s : State} {c : Site} (h : s.ctl = .r1 c .extraCsLow) :
    runPositions 3 s = r1Return c (drawn s 0) (polled s (drawn s 0)) := by
  rw [runPositions_succ 2 (advance_extraCsLow h), runPositions_succ 1 rfl, runPositions_one,
    advance_extraCsHigh rfl rfl, ← r1Return_ctl c _ (polled s _) (.r1 c .extraCsHigh), ← setCs_high_r1Xfer, ← nextByte_eq_drawn]
  rfl

/-! ### A step is a run of positions -/

/-- The step from a state is one to eight positions in sequence. -/
def StepIsPositions (s : State) : Prop := ∃ n, 1 ≤ n ∧ n ≤ 8 ∧ runPositions n s = step s

theorem StepIsPositions.of_advance {s : State} (h : step s = advance s) : StepIsPositions s :=
  ⟨1, by decide, by decide, by rw [runPositions_one, h]⟩

/-- A FRAME call is eight positions, or the one that finds a register without value. -/
theorem StepIsPositions.frame {s : State} {c : Site} (h : s.ctl = .frame c .csLow) : StepIsPositions s := by
  cases hx : s.w.idx with
  | none => exact .of_advance (step_frame_unwritten h (.inl hx))
  | some x =>
    cases ha : s.w.arg with
    | none => exact .of_advance (step_frame_unwritten h (.inr ha))
    | some a =>
      exact ⟨8, by decide, by decide, by rw [runPositions_frame h hx ha, step_frame h hx ha, frameProc_at h]⟩

/-- A Response Reader poll is three positions, and six when the vendor byte comes. -/
theorem StepIsPositions.poll {s : State} {c : Site} (h : s.ctl = .r1 c .pollCsLow) : StepIsPositions s := by
  have h3 := runPositions_poll h
  by_cases hv : drawn s 0 = Params.vendorByte
  · have ha : r1Arrived (drawn s 0) = true := by rw [hv]; rfl
    rw [if_pos ha, if_pos hv] at h3
    refine ⟨3 + 3, by decide, by decide, ?_⟩
    have hd : drawn { polled s (drawn s 0) with ctl := .r1 c .extraCsLow } 0 = drawn s 1 :=
      drawn_polled s (drawn s 0) 0
    rw [runPositions_add 3 h3, runPositions_extra rfl, hd, step_r1 h, if_pos ha, if_pos hv]
    exact r1Return_ctl c _ (polled (polled s _) _) _
  · exact ⟨3, by decide, by decide, by rw [h3, step_r1 h, if_neg hv, if_neg hv]⟩

/-- Settles O51: a FRAME call is its eight positions, a Response Reader poll its three or six, and at every other busy
position a step is that position. -/
theorem stepIsPositionsInSequence : Obligations.StepIsPositionsInSequence := by
  intro s hi
  by_cases hf : ∃ c, s.ctl = .frame c .csLow
  · obtain ⟨c, h⟩ := hf
    exact StepIsPositions.frame h
  by_cases hr : ∃ c, s.ctl = .r1 c .pollCsLow
  · obtain ⟨c, h⟩ := hr
    exact StepIsPositions.poll h
  by_cases ht : ∃ o, s.ctl = .block o .tokenPoll
  · obtain ⟨o, h⟩ := ht
    exact StepIsPositions.of_advance (step_tokenPoll h)
  · exact StepIsPositions.of_advance (step_eq_advance hi (not_exists.1 hf) (not_exists.1 hr) (not_exists.1 ht))

/-! ### The events of a step -/

/-- A buffer write records no event (R15). -/
theorem memWrite_trace {b : Buf} {off n : Nat} {v : Byte} {s t : State} (h : memWrite b off n v s = .next t) :
    t.trace = s.trace := by
  obtain ⟨-, e, -⟩ := memWrite_next h
  rw [e]

/-- A step continues the trace, by at most the eight events of a frame. -/
theorem StepTo.trace_growth {s t : State} (h : StepTo s t) :
    s.trace <+: t.trace ∧ t.trace.length ≤ s.trace.length + 8 := by
  cases h with
  | frame c x a => simp [sentFrame, frameEvents]
  | missed => simp [polled, pollEvents]
  | exhausted c k t _ _ _ _ ha => rw [ha.trace_cs.1]; simp [polled, pollEvents]
  | token c t _ _ _ ha => rw [ha.trace_cs.1]; simp [polled, pollEvents]
  | vendor c t _ _ ha => rw [ha.trace_cs.1]; simp [polled, pollEvents]
  | pollToken c b t _ _ _ _ ha => rw [ha.trace_cs.1]; simp
  | pollExhausted c b k t _ _ _ _ _ ha => rw [ha.trace_cs.1]; simp
  | extraCsHigh c b t _ _ ha => rw [ha.trace_cs.1]; simp
  | zeroed o b t _ _ hw => simp [memWrite_trace hw]
  | data o i b u _ _ _ hw => simp [memWrite_trace hw]
  | close o found => cases o <;> cases found <;> simp [blockReturn]
  | unwritten r l es d _ _ hl => simp [Nat.le_trans hl (by decide : 6 ≤ 8)]
  | _ => simp [tryGoIdle, tryIfCond, tryNegotiate]

/-- Settles O47, by the cases of a step. -/
theorem traceOnlyGrows : Obligations.TraceOnlyGrows := by
  intro s t h
  obtain ⟨⟨es, he⟩, hl⟩ := (step_next h).trace_growth
  refine ⟨es, he.symm, ?_⟩
  rw [← he, List.length_append] at hl
  omega

end Sys2Proof.Machine

/-! SUPPORT and PROOFS of the statements about the state: what every step keeps of the legal states and of the bracket
discipline, that it goes on from every legal state, how FAULT is entered, and that no step reads a buffer. -/

namespace Sys2Proof.Machine

/-! ### The Mode a position requires -/

/-- The Mode an exchange's site requires: NONE in the bring-up, SDHC in the trial read, not NONE in a host's read (R151,
R166, R191). -/
def Site.needsMode (c : Site) (m : Mode) : Prop :=
  match c with
  | .block .probe => m = .sdhc
  | .block .host => m ≠ .none
  | _ => m = .none

@[simp] theorem modeOk_idle (m : Mode) : modeOk m .idle := .inl rfl

@[simp] theorem modeOk_fault (m : Mode) : modeOk m .fault := .inr (.inl rfl)

@[simp] theorem modeOk_power (m : Mode) (p : PowerPos) : modeOk m (.power p) ↔ m = .none := by
  simp [modeOk, Ctl.reading]

@[simp] theorem modeOk_delay (m : Mode) (d : RetryWait) : modeOk m (.delay d) ↔ m = .none := by
  simp [modeOk, Ctl.reading]

@[simp] theorem modeOk_setMode (m : Mode) : modeOk m .setMode ↔ m = .none := by simp [modeOk, Ctl.reading]

@[simp] theorem modeOk_frame (m : Mode) (c : Site) (p : FramePos) : modeOk m (.frame c p) ↔ c.needsMode m := by
  cases c with
  | block o => cases o <;> simp [modeOk, Ctl.reading, Site.needsMode]
  | _ => simp [modeOk, Ctl.reading, Site.needsMode]

@[simp] theorem modeOk_r1 (m : Mode) (c : Site) (p : R1Pos) : modeOk m (.r1 c p) ↔ c.needsMode m := by
  cases c with
  | block o => cases o <;> simp [modeOk, Ctl.reading, Site.needsMode]
  | _ => simp [modeOk, Ctl.reading, Site.needsMode]

@[simp] theorem modeOk_check (m : Mode) (o : Owner) :
    modeOk m (.block o .check) ↔ (o = .probe → m = .sdhc) := by cases o <;> simp [modeOk, Ctl.reading]

/-- Past its check a block read has the Mode of its command exchange (R191). -/
@[simp] theorem modeOk_block {p : BlockPos} (hp : p ≠ .check) (m : Mode) (o : Owner) :
    modeOk m (.block o p) ↔ (Site.block o).needsMode m := by
  cases o <;> simp [modeOk, Ctl.reading, Site.needsMode, hp]

/-! ### The card power a position requires -/

@[simp] theorem pwrOk_idle (m : Mode) (pwr : Bool) : pwrOk m pwr .idle ↔ (m ≠ .none → pwr = true) := by
  simp [pwrOk, Ctl.top]

@[simp] theorem pwrOk_fault (m : Mode) (pwr : Bool) : pwrOk m pwr .fault ↔ (m ≠ .none → pwr = true) := by
  simp [pwrOk, Ctl.top]

@[simp] theorem pwrOk_delay (m : Mode) (pwr : Bool) (d : RetryWait) : pwrOk m pwr (.delay d) ↔ pwr = true := by
  simp [pwrOk, Ctl.top]

@[simp] theorem pwrOk_setMode (m : Mode) (pwr : Bool) : pwrOk m pwr .setMode ↔ pwr = true := by simp [pwrOk, Ctl.top]

@[simp] theorem pwrOk_frame (m : Mode) (pwr : Bool) (c : Site) (p : FramePos) :
    pwrOk m pwr (.frame c p) ↔ (c ≠ .block .host ∨ m ≠ .none → pwr = true) := by
  cases c with
  | block o => cases o <;> simp [pwrOk, Ctl.top]
  | _ => simp [pwrOk, Ctl.top]

@[simp] theorem pwrOk_r1 (m : Mode) (pwr : Bool) (c : Site) (p : R1Pos) :
    pwrOk m pwr (.r1 c p) ↔ (c ≠ .block .host ∨ m ≠ .none → pwr = true) := by
  cases c with
  | block o => cases o <;> simp [pwrOk, Ctl.top]
  | _ => simp [pwrOk, Ctl.top]

@[simp] theorem pwrOk_block (m : Mode) (pwr : Bool) (o : Owner) (p : BlockPos) :
    pwrOk m pwr (.block o p) ↔ (o ≠ .host ∨ m ≠ .none → pwr = true) := by
  cases o <;> simp [pwrOk, Ctl.top]

/-! ### The frame and the ends of READ_R1's return -/

/-- An answer of READ_R1 leaves the request running, with three registers at most written, or ends it with one result
and no register holding a value (R28, R38). -/
theorem R1Answer.goesOn_or_ends {u t : State} {c : Site} {r : Byte} (h : R1Answer u r c t) :
    (t.ctl ≠ .idle ∧ t.ctl ≠ .fault ∧ t.completions = u.completions ∧
      t.w = { u.w with attempt := t.w.attempt, idx := t.w.idx, arg := t.w.arg }) ∨
    (t.ctl = .idle ∧ t.w = Work.empty ∧ ∃ r, t.completions = u.completions ++ [r]) := by
  cases h with
  | goIdleFailed | ifCondFailed | acmd41Failed | hostRejected | probeRejected => exact .inr ⟨rfl, rfl, _, rfl⟩
  | _ => exact .inl ⟨nofun, nofun, rfl, rfl⟩

/-- What an answer of READ_R1 leaves alone (R28, R240). -/
theorem R1Answer.unchanged {u t : State} {c : Site} {r : Byte} (h : R1Answer u r c t) :
    t.pwr = u.pwr ∧ t.fault = u.fault ∧ t.port = u.port ∧ t.mem = u.mem ∧ t.scratch = u.scratch := by
  cases h <;> exact ⟨rfl, rfl, rfl, rfl, rfl⟩

/-- An answer of READ_R1 writes Mode in a failed trial read alone (R168). -/
theorem R1Answer.mode_eq_or_none {u t : State} {c : Site} {r : Byte} (h : R1Answer u r c t) :
    t.mode = u.mode ∨ (c = .block .probe ∧ t.mode = .none) := by
  cases h with
  | probeRejected => exact .inr ⟨rfl, rfl⟩
  | _ => exact .inl rfl

/-- An answer of READ_R1 arrives at no position inside a bracket (R138). -/
theorem R1Answer.level {u t : State} {c : Site} {r : Byte} (h : R1Answer u r c t) : t.ctl.level = .high := by
  cases h <;> rfl

/-! ### What an answer of READ_R1 needs and leaves of the legal states -/

/-- An answer of READ_R1 arrives outside FAULT, with the fault mark it came with (R240). -/
theorem R1Answer.mark {u t : State} {c : Site} {r : Byte} (h : R1Answer u r c t) (hm : u.fault = none) :
    t.fault.isSome = true ↔ t.ctl = .fault := by
  have hc : t.ctl ≠ .fault := by rcases h.goesOn_or_ends with h | h <;> simp [h]
  obtain ⟨-, e, -⟩ := h.unchanged
  simp [e, hm, hc]

/-- An answer of READ_R1 arrives with the Mode its position requires. -/
theorem R1Answer.modeOk {u t : State} {c : Site} {r : Byte} (h : R1Answer u r c t) (hm : c.needsMode u.mode) :
    modeOk t.mode t.ctl := by
  cases h <;> simp_all [tryIfCond, tryGoIdle, tryNegotiate, Site.needsMode]

/-- An answer of READ_R1 arrives with the card power its position requires. -/
theorem R1Answer.pwrOk {u t : State} {c : Site} {p : R1Pos} {r : Byte} (h : R1Answer u r c t)
    (hp : pwrOk u.mode u.pwr (.r1 c p)) : pwrOk t.mode t.pwr t.ctl := by
  cases h <;> simp_all [tryIfCond, tryGoIdle, tryNegotiate]

/-- A FRAME call of a site's index and argument has the registers its position requires (R28). -/
theorem regsOk_callFrame {c : Site} {arg : U32} {s : State} {m : Mode} (hs : c.sends m s.w arg) (hr : c.regs s.w) :
    regsOk m (callFrame c c.index arg s).w (.frame c .csLow) := by
  refine ⟨⟨rfl, arg, rfl, ?_, .inl rfl⟩, Site.regs_congr rfl rfl rfl hr⟩
  cases c <;> exact hs

theorem regsOk_tryGoIdle {n : Attempt} (h1 : 1 ≤ n.toNat) (hn : n.toNat ≤ 100) (m : Mode) (s : State) :
    regsOk m (tryGoIdle n s).w (.frame .goIdle .csLow) := regsOk_callFrame rfl ⟨n, rfl, h1, hn⟩

theorem regsOk_tryIfCond {n : Attempt} (h1 : 1 ≤ n.toNat) (hn : n.toNat ≤ 100) (m : Mode) (s : State) :
    regsOk m (tryIfCond n s).w (.frame .ifCond .csLow) := regsOk_callFrame rfl ⟨n, rfl, h1, hn⟩

theorem regsOk_tryNegotiate {n : Attempt} (h1 : 1 ≤ n.toNat) (hn : n.toNat ≤ 1000) (m : Mode) (s : State) :
    regsOk m (tryNegotiate n s).w (.frame .app55 .csLow) := regsOk_callFrame rfl ⟨n, rfl, h1, hn⟩

/-- A poll of READ_R1 with its number in range has the registers its position requires (R28). -/
theorem regsOk_pollCsLow {c : Site} {k : Poll} {w : Work} {m : Mode} (hk : w.poll = some k) (h1 : 1 ≤ k.toNat)
    (h2 : k.toNat ≤ 100) (hg : c.regs w) : regsOk m w (.r1 c .pollCsLow) := ⟨⟨⟨k, hk, h1, h2⟩, nofun⟩, hg⟩

/-- A number the attempt counter holds is in the range the counter is in. -/
theorem Work.attemptIn.of_some {w : Work} {b : Nat} {n : Attempt} (h : w.attemptIn b) (hn : w.attempt = some n) :
    1 ≤ n.toNat ∧ n.toNat ≤ b := by
  obtain ⟨k, hk, h⟩ := h
  rw [hn] at hk; cases hk; exact h

/-- An answer of READ_R1 arrives with the registers its position requires (R28). -/
theorem R1Answer.regsOk {u t : State} {c : Site} {r : Byte} (h : R1Answer u r c t) (hg : c.regs u.w) :
    regsOk t.mode t.w t.ctl := by
  cases h with
  | goIdleOk => exact regsOk_tryIfCond (by decide) (by decide) _ _
  | goIdleAgain n _ _ hn =>
    have e : (n + 1).toNat = n.toNat + 1 := attempt_succ (Nat.lt_trans hn (by decide))
    exact regsOk_tryGoIdle (by omega) (by omega) _ _
  | ifCondOk => exact regsOk_tryNegotiate (by decide) (by decide) _ _
  | ifCondWait n _ hn hb | acmd41Wait n _ hn hb => exact ⟨n, hn, (hg.of_some hn).1, hb⟩
  | app55 => exact regsOk_callFrame (c := .acmd41) rfl hg
  | acmd41Ok => trivial
  | blockOk o => exact ⟨hg, trivial⟩
  | _ => rfl

/-- A buffer write changes memory alone (R15). -/
theorem memWrite_eq {b : Buf} {off n : Nat} {v : Byte} {s t : State} (h : memWrite b off n v s = .next t) :
    t = { s with mem := t.mem, scratch := t.scratch } := by
  obtain ⟨-, e, -⟩ := memWrite_next h
  exact e

/-! ### Legal states, part by part -/

/-- The registers of a legal state at a position (R28). -/
theorem Inv.regs_at {s : State} {c : Ctl} (hi : Inv s) (hc : s.ctl = c) : regsOk s.mode s.w c := hc ▸ hi.regs

/-- Outside FAULT a legal state has no fault mark (R240). -/
theorem Inv.mark_none {s : State} (hi : Inv s) (hc : s.ctl ≠ .fault) : s.fault = none := by
  simpa [hc] using hi.mark

/-- A step leaves chip-select at the level of the position it arrives at (R24). -/
theorem StepTo.cs_level {s t : State} (h : StepTo s t) (hi : Inv s) : t.cs = t.ctl.level := by
  have hcs := hi.cs
  cases h with
  | exhausted | token | vendor | pollToken | pollExhausted | extraCsHigh =>
    have ha := ‹R1Answer _ _ _ t›
    rw [ha.trace_cs.2, ha.level]; rfl
  | missed c k hc => simp [polled, hc, Ctl.level, Ctl.bracketOpen]
  | zeroed o b t hc _ hw => rw [hc] at hcs; rw [memWrite_eq hw]; exact hcs
  | data o i b u hc _ _ hw => rw [hc] at hcs; rw [memWrite_eq hw]; split <;> exact hcs
  | close o found => cases o <;> cases found <;> rfl
  | unwritten r l es d hr hh => rw [hi.holds hr] at hh; cases hh
  | frame | frameClose | primeCsHigh | pollVendor | pollMissed => rfl
  | _ => simp_all [Ctl.level, Ctl.bracketOpen, tryIfCond, tryNegotiate]

/-- A step sets the fault mark where it enters FAULT and nowhere else (R240). -/
theorem StepTo.mark {s t : State} (h : StepTo s t) (hi : Inv s) : t.fault.isSome = true ↔ t.ctl = .fault := by
  have hm := hi.mark
  cases h with
  | exhausted | token | vendor | pollToken | pollExhausted | extraCsHigh =>
    have ha := ‹R1Answer _ _ _ t›
    exact ha.mark (hi.mark_none (by simp_all))
  | zeroed o b t hc _ hw | data o i b u hc _ _ hw => rw [hc] at hm; rw [memWrite_eq hw]; simpa using hm
  | close o found hc => rw [hc] at hm; cases o <;> cases found <;> simpa [blockReturn] using hm
  | _ => simp_all [sentFrame, polled, tryGoIdle, tryIfCond, tryNegotiate]

/-- A step keeps the buffers in canonical form and the scratch buffer within its 512 bytes (R29). -/
theorem StepTo.memory {s t : State} (h : StepTo s t) (hi : Inv s) :
    Mem.wf t.mem = true ∧ Mem.wf t.scratch = true ∧ ∀ c ∈ t.scratch, c.1 < Params.sectorSize := by
  cases h with
  | exhausted | token | vendor | pollToken | pollExhausted | extraCsHigh =>
    have ha := ‹R1Answer _ _ _ t›
    obtain ⟨-, -, -, em, es⟩ := ha.unchanged
    rw [em, es]; exact ⟨hi.mem, hi.scratch, hi.scratchSize⟩
  | zeroed o b t _ _ hw | data o i b u _ _ _ hw =>
    obtain ⟨-, -, h1, h2, h3⟩ := memWrite_next hw
    exact ⟨h1 hi.mem, h2 hi.scratch, h3 hi.scratchSize⟩
  | close o found => cases o <;> cases found <;> exact ⟨hi.mem, hi.scratch, hi.scratchSize⟩
  | _ => exact ⟨hi.mem, hi.scratch, hi.scratchSize⟩

/-- A step arrives with the Mode its position requires (R151, R166, R191). -/
theorem StepTo.modeOk {s t : State} (h : StepTo s t) (hi : Inv s) : modeOk t.mode t.ctl := by
  have hm := hi.mode
  cases h with
  | exhausted c _ _ hc | token c _ hc | vendor c _ hc | pollToken c _ _ hc | pollExhausted c _ _ _ hc
  | extraCsHigh c _ _ hc =>
    have ha := ‹R1Answer _ _ _ t›
    rw [hc] at hm; exact ha.modeOk ((modeOk_r1 _ _ _).1 hm)
  | zeroed o b t hc _ hw => rw [hc] at hm; rw [memWrite_eq hw]; simpa using hm
  | data o i b u hc _ _ hw => rw [hc] at hm; rw [memWrite_eq hw]; split <;> simpa using hm
  | checked o hc hn => cases o <;> simp_all [Site.needsMode]
  | close o found hc => rw [hc] at hm; cases o <;> cases found <;> simp [blockReturn]
  | _ => simp_all [sentFrame, polled, tryGoIdle, tryIfCond, tryNegotiate, Site.needsMode]

/-- A step arrives with the card power its position requires (R25, R153, R173). -/
theorem StepTo.pwrOk {s t : State} (h : StepTo s t) (hi : Inv s) : pwrOk t.mode t.pwr t.ctl := by
  have hp := hi.pwr
  cases h with
  | exhausted c _ _ hc | token c _ hc | vendor c _ hc | pollToken c _ _ hc | pollExhausted c _ _ _ hc
  | extraCsHigh c _ _ hc =>
    have ha := ‹R1Answer _ _ _ t›
    rw [hc] at hp; exact ha.pwrOk hp
  | zeroed o b t hc _ hw | data o i b u hc _ _ hw => rw [hc] at hp; rw [memWrite_eq hw]; simpa using hp
  | close o found hc => rw [hc] at hp; cases o <;> cases found <;> simp_all [blockReturn]
  | unwritten r l es d hr hh => rw [hi.holds hr] at hh; cases hh
  | init => trivial
  | pwrOff | pwrOn => simp [Machine.pwrOk]
  | waitOff hc | waitOn hc | primeCsLow hc | primeXfer k hk hc | primeLast k hc | primeCsHigh hc =>
    rw [hc] at hp; simpa [Machine.pwrOk, Ctl.top, tryGoIdle] using hp
  | _ => simp_all [sentFrame, polled, tryIfCond, tryNegotiate]

/-- A step arrives with every register its position reads in range (R28). -/
theorem StepTo.regsOk {s t : State} (h : StepTo s t) (hi : Inv s) : regsOk t.mode t.w t.ctl := by
  cases h with
  | wait => exact hi.regs
  | init | notReady | noArg => rfl
  | read sector buf => exact ⟨⟨⟨sector, rfl⟩, buf, rfl⟩, trivial⟩
  | pwrOff hc | waitOff hc | pwrOn hc | waitOn hc | primeCsLow hc | primeXfer _ _ hc | primeLast _ hc =>
    have hw : s.w = Work.empty := hi.regs_at hc
    exact hw
  | primeCsHigh => exact regsOk_tryGoIdle (by decide) (by decide) _ _
  | frame c x a hc | frameClose c hc =>
    obtain ⟨-, hg⟩ := hi.regs_at hc
    exact regsOk_pollCsLow rfl (by decide) (by decide) (Site.regs_congr rfl rfl rfl hg)
  | frameXfer c f i _ hc | frameLast c f i hc =>
    obtain ⟨⟨hx, a, ha, hs, hf⟩, hg⟩ := hi.regs_at hc
    exact ⟨⟨hx, a, ha, hs, .inr (hf.resolve_left nofun)⟩, hg⟩
  | exhausted c _ _ hc | token c _ hc | vendor c _ hc | pollToken c _ _ hc | pollExhausted c _ _ _ hc
  | extraCsHigh c _ _ hc =>
    have ha := ‹R1Answer _ _ _ t›
    obtain ⟨-, hg⟩ := hi.regs_at hc
    exact ha.regsOk (Site.regs_congr rfl rfl rfl hg)
  | missed c k hc _ _ hb =>
    have e := poll_succ (k := k) (Nat.lt_trans hb (by decide))
    obtain ⟨-, hg⟩ := hi.regs_at hc
    show Machine.regsOk s.mode _ s.ctl
    rw [hc]
    exact regsOk_pollCsLow rfl (by omega) (by omega) (Site.regs_congr rfl rfl rfl hg)
  | pollMissed c b k hc _ _ _ hb =>
    have e := poll_succ (k := k) (Nat.lt_trans hb (by decide))
    obtain ⟨-, hg⟩ := hi.regs_at hc
    exact regsOk_pollCsLow rfl (by omega) (by omega) (Site.regs_congr rfl rfl rfl hg)
  | pollXfer c hc | extraXfer c hc =>
    obtain ⟨⟨hk, -⟩, hg⟩ := hi.regs_at hc
    exact ⟨⟨hk, fun _ => ⟨_, rfl⟩⟩, Site.regs_congr rfl rfl rfl hg⟩
  | pollVendor c hc | extraCsLow c hc =>
    obtain ⟨⟨hk, -⟩, hg⟩ := hi.regs_at hc
    exact ⟨⟨hk, nofun⟩, hg⟩
  | delayIfCond n hc hn =>
    obtain ⟨k, hk, h1, hb⟩ := hi.regs_at hc
    cases hn.symm.trans hk
    have e := attempt_succ (n := n) (Nat.lt_trans hb (by decide))
    exact regsOk_tryIfCond (by omega) (by rw [e]; exact hb) _ _
  | delayNegotiate n hc hn =>
    obtain ⟨k, hk, h1, hb⟩ := hi.regs_at hc
    cases hn.symm.trans hk
    have e := attempt_succ (n := n) hb
    exact regsOk_tryNegotiate (by omega) (by rw [e]; exact hb) _ _
  | setMode => exact ⟨⟨rfl, rfl⟩, trivial⟩
  | checked o hc =>
    obtain ⟨ho, -⟩ := hi.regs_at hc
    exact ⟨ho, trivial⟩
  | zeroed o b t hc _ hw =>
    obtain ⟨ho, -⟩ := hi.regs_at hc
    rw [memWrite_eq hw]; exact ⟨ho, trivial⟩
  | framed o x a hc hx ha =>
    obtain ⟨ho, -⟩ := hi.regs_at hc
    exact regsOk_callFrame (c := .block o) ⟨x, hx, ha⟩ ho
  | dataCsLow o hc =>
    obtain ⟨ho, -⟩ := hi.regs_at hc
    exact ⟨Work.readOf_congr rfl rfl ho, 1, rfl, by decide, by decide⟩
  | tokenFound o hc =>
    obtain ⟨ho, -⟩ := hi.regs_at hc
    exact ⟨Work.readOf_congr rfl rfl ho, 0, rfl, by decide, by decide⟩
  | tokenMissed o p hc _ _ hb =>
    have e := poll_succ (k := p) hb
    obtain ⟨ho, -⟩ := hi.regs_at hc
    exact ⟨Work.readOf_congr rfl rfl ho, p + 1, rfl, by omega, by rw [e]; exact hb⟩
  | noToken o p hc | crcLast o i hc =>
    obtain ⟨ho, -⟩ := hi.regs_at hc
    exact ⟨ho, trivial⟩
  | data o i b u hc _ _ hw =>
    obtain ⟨hlt, -⟩ := memWrite_next hw
    have e := index_succ (i := i) (by omega)
    obtain ⟨ho, -⟩ := hi.regs_at hc
    have ho := Work.readOf_congr (w' := { s.w with i := some (i + 1) }) rfl rfl ho
    rcases Nat.lt_or_ge (i.toNat + 1) 512 with hl | hl
    · rw [if_pos hl]; exact ⟨ho, i + 1, rfl, by omega, by omega⟩
    · rw [if_neg (Nat.not_lt.2 hl)]; exact ⟨ho, i + 1, rfl, by omega, by omega⟩
  | crc o i hc hn hb =>
    obtain ⟨ho, k, hk, h1, -⟩ := hi.regs_at hc
    cases hn.symm.trans hk
    have e := index_succ (i := i) (by omega)
    exact ⟨Work.readOf_congr rfl rfl ho, i + 1, rfl, by omega, by omega⟩
  | close o found => cases o <;> cases found <;> rfl
  | unwritten r l es d hr hh => rw [hi.holds hr] at hh; cases hh

/-- Settles O53, part by part over the cases of a step. -/
theorem stepKeepsLegalStates : Obligations.StepKeepsLegalStates := by
  intro s t hi h
  have ht := step_next h
  obtain ⟨hm, hs, hz⟩ := ht.memory hi
  exact ⟨ht.cs_level hi, ht.mark hi, hm, hs, hz, ht.modeOk hi, ht.pwrOk hi, ht.regsOk hi⟩

/-! ### The bracket discipline (R60, R270) -/

/-- A bracketed trace is continued by events that lead from chip-select's level to its new one. -/
theorem Bracketed.append {s t : State} {es : List Event} (h : Bracketed s) (ht : t.trace = s.trace ++ es)
    (hs : bracketScan s.cs es = some t.cs) : Bracketed t := by
  rw [Bracketed, ht, bracketScan_append, h]; exact hs

/-- What changes neither the trace nor chip-select keeps the discipline. -/
theorem Bracketed.congr {s t : State} (h : Bracketed s) (ht : t.trace = s.trace) (hc : t.cs = s.cs) : Bracketed t := by
  rw [Bracketed, ht, hc]; exact h

theorem Bracketed.setCs_low {s : State} (h : Bracketed s) (hc : s.cs = .high) : Bracketed (setCs .low s) :=
  h.append rfl (by rw [hc]; rfl)

theorem Bracketed.setCs_high {s : State} (h : Bracketed s) (hc : s.cs = .low) : Bracketed (setCs .high s) :=
  h.append rfl (by rw [hc]; rfl)

theorem Bracketed.xfer {s : State} (h : Bracketed s) (hc : s.cs = .low) (o : Byte) : Bracketed (xfer o s) :=
  h.append (xfer_trace o s) (by simp [bracketScan, hc])

theorem Bracketed.setPower {s : State} (h : Bracketed s) (hc : s.cs = .high) (on : Bool) : Bracketed (setPower on s) :=
  h.append rfl (by simp [bracketScan, hc])

theorem Bracketed.delayUs {s : State} (h : Bracketed s) (hc : s.cs = .high) (us : Nat) : Bracketed (delayUs us s) :=
  h.append rfl (by simp [bracketScan, hc])

/-- A frame is one bracket (R106). -/
theorem Bracketed.sentFrame {s : State} (h : Bracketed s) (hc : s.cs = .high) (f : Frame) : Bracketed (sentFrame s f) :=
  h.append rfl (by rw [hc]; rfl)

/-- A Response Reader exchange is one bracket (R131). -/
theorem Bracketed.polled {s : State} (h : Bracketed s) (hc : s.cs = .high) (b : Byte) : Bracketed (polled s b) :=
  h.append rfl (by rw [hc]; rfl)

/-- An answer of READ_R1 keeps the discipline. -/
theorem R1Answer.bracketed {u t : State} {c : Site} {r : Byte} (h : R1Answer u r c t) (hb : Bracketed u) : Bracketed t :=
  hb.congr h.trace_cs.1 h.trace_cs.2

/-- In a legal state chip-select is at the level of the position (R24). -/
theorem Inv.cs_at {s : State} {c : Ctl} {l : Level} (hi : Inv s) (hc : s.ctl = c) (hl : c.level = l) : s.cs = l := by
  rw [hi.cs, hc, hl]

/-- A step from a legal state keeps the discipline. -/
theorem StepTo.bracketed {s t : State} (h : StepTo s t) (hi : Inv s) (hb : Bracketed s) : Bracketed t := by
  cases h with
  | wait | init | read | setMode | notReady | checked | framed | noArg => exact hb
  | pwrOff hc => exact hb.setPower (hi.cs_at hc rfl) _
  | pwrOn hc => exact hb.setPower (hi.cs_at hc rfl) _
  | waitOff hc | waitOn hc | delayIfCond _ hc | delayNegotiate _ hc => exact hb.delayUs (hi.cs_at hc rfl) _
  | primeCsLow hc | extraCsLow c hc | dataCsLow o hc => exact hb.setCs_low (hi.cs_at hc rfl)
  | primeXfer k _ hc | primeLast k hc | frameXfer c f i _ hc | frameLast c f i hc | pollXfer c hc | extraXfer c hc
  | tokenFound o hc | tokenMissed o p hc | noToken o p hc | crc o i hc | crcLast o i hc =>
    exact hb.xfer (hi.cs_at hc rfl) _
  | primeCsHigh hc | frameClose c hc | pollVendor c hc | pollMissed c b k hc => exact hb.setCs_high (hi.cs_at hc rfl)
  | frame c x a hc => exact hb.sentFrame (hi.cs_at hc rfl) _
  | missed c k hc => exact hb.polled (hi.cs_at hc rfl) _
  | exhausted c _ _ hc _ _ _ ha | token c _ hc _ _ ha => exact ha.bracketed (hb.polled (hi.cs_at hc rfl) _)
  | vendor c _ hc _ ha => exact ha.bracketed ((hb.polled (hi.cs_at hc rfl) _).polled rfl _)
  | pollToken c _ _ hc _ _ _ ha | pollExhausted c _ _ _ hc _ _ _ _ ha | extraCsHigh c _ _ hc _ ha =>
    exact ha.bracketed (hb.setCs_high (hi.cs_at hc rfl))
  | zeroed o b t hc _ hw => rw [memWrite_eq hw]; exact hb
  | data o i b u hc _ _ hw => rw [memWrite_eq hw]; exact hb.xfer (hi.cs_at hc rfl) _
  | close o found hc =>
    cases o <;> cases found <;> exact hb.setCs_high (hi.cs_at hc rfl)
  | unwritten r l es d hr hh => rw [hi.holds hr] at hh; cases hh

/-- Settles O55, by the cases of a step: each appends whole brackets, or the events its position's level allows. -/
theorem stepKeepsBrackets : Obligations.StepKeepsBrackets :=
  fun _ _ hi hb h => (step_next h).bracketed hi hb

/-! ### Entering FAULT -/

/-- The cases of WIRE_ARG that have no value (R193, R194). -/
theorem wireArg_error {m : Mode} {x : U32} {n : FaultName} (h : wireArg m x = .error n) :
    (n = .notReady ∧ m = .none) ∨ (n = .sdscArgOverflow ∧ m = .sdsc ∧ 2 ^ 23 ≤ x.toNat) := by
  cases m with
  | none => cases h; exact .inl ⟨rfl, rfl⟩
  | sdhc => cases h
  | sdsc =>
    simp only [wireArg] at h; split at h
    · cases h
    · next hx => cases h; exact .inr ⟨rfl, rfl, Nat.le_of_not_lt hx⟩

/-- The model fault a step raises (R240): the one mark and the reason for it. -/
def RaisedBy (s : State) (n : FaultName) : Prop :=
  (n = .notReady ∧ s.mode = .none) ∨
    (n = .sdscArgOverflow ∧ s.mode = .sdsc ∧ ∃ x, s.w.sector = some x ∧ 2 ^ 23 ≤ x.toNat) ∨
    ∃ r, n = .unwrittenRegister r ∧ s.ctl.reads r = true ∧ s.w.holds r = false

/-- A step that enters FAULT raises a model fault, after some events and nothing else. -/
theorem StepTo.raises {s t : State} (h : StepTo s t) (ht : t.ctl = .fault) (hs : s.ctl ≠ .fault) :
    ∃ n u, RaisedBy s n ∧ t = raiseFault n u ∧
      u = { s with cs := u.cs, trace := u.trace, card := u.card, draws := u.draws } := by
  cases h with
  | wait => exact absurd ht hs
  | notReady o _ hm => exact ⟨_, s, .inl ⟨rfl, hm⟩, rfl, rfl⟩
  | noArg o x n _ hx hn =>
    refine ⟨n, s, ?_, rfl, rfl⟩
    rcases wireArg_error hn with h | ⟨h1, h2, h3⟩
    · exact .inl h
    · exact .inr (.inl ⟨h1, h2, x, hx, h3⟩)
  | unwritten r l es d hr hh => exact ⟨_, _, .inr (.inr ⟨r, rfl, hr, hh⟩), rfl, rfl⟩
  | exhausted | token | vendor | pollToken | pollExhausted | extraCsHigh =>
    rcases (‹R1Answer _ _ _ t›).goesOn_or_ends with h | h <;> simp [ht] at h
  | missed c k hc => simp [polled, hc] at ht
  | zeroed o b t hc _ hw => rw [memWrite_eq hw] at ht; cases ht
  | close o found => cases o <;> cases found <;> cases ht
  | _ => cases ht

/-- From FAULT no step is enabled (R240). -/
theorem step_fault {s : State} (h : s.ctl = .fault) : step s = .fault (.halted s.fault) := by simp only [step, fetch, h]

/-- From FAULT no instruction runs (R240). -/
theorem exec_fault {s : State} (h : s.ctl = .fault) (i : Instr) : exec i s = .fault (.halted s.fault) := by
  cases i with
  | cmd0 | cmd8 | cmd17 | cmd55 | acmd41 | cmdN =>
    simp only [exec, execCmd0, execCmd8, execCmd17, execCmd55, execAcmd41, execCmdN, unlessFaulted, h]
  | init | readSector => simp only [exec, execInit, execReadSector, whenIdle, h]
  | rxR1NotArrived | rxR1Vendor | rxR1Token =>
    simp only [exec, execRxR1NotArrived, execRxR1Vendor, execRxR1Token, atR1Poll, h]
  | rxDataToken | rxDataBusy => simp only [exec, execRxDataToken, execRxDataBusy, atTokenPoll, h]

/-- Settles O24: a step into FAULT is one of the three that raise a model fault. -/
theorem faultIsEnteredByModelFaultAndNeverLeft : Obligations.FaultIsEnteredByModelFaultAndNeverLeft := by
  refine ⟨fun s h => ⟨step_fault h, exec_fault h⟩, fun s t h ht => ?_⟩
  have hs : s.ctl ≠ .fault := fun hf => by rw [step_fault hf] at h; cases h
  obtain ⟨n, u, hn, rfl, hu⟩ := (step_next h).raises ht hs
  rw [hu]
  refine ⟨rfl, rfl, rfl, fun b k => rfl, ?_⟩
  simpa [RaisedBy] using hn

/-! ### Going on -/

/-- A register read goes on when what follows it does. -/
theorem needReg_total {α : Type} {v : Option α} {r : WorkReg} {s : State} {k : α → Out}
    (h : ∀ x, v = some x → ∃ t, k x = .next t) : ∃ t, needReg v r s k = .next t := by
  cases v with
  | none => exact ⟨_, rfl⟩
  | some x => exact h x rfl

/-- A branch goes on when both its ways do. -/
theorem ite_total {p : Prop} [Decidable p] {a b : Out} (ha : ∃ t, a = .next t) (hb : ∃ t, b = .next t) :
    ∃ t, (if p then a else b) = .next t := by split <;> assumption

theorem pollMissed_total (c : Site) (b : Byte) (s : State) : ∃ t, pollMissed c b s = .next t :=
  needReg_total fun _ _ => ite_total ⟨_, rfl⟩ (r1Return_total c b s)

theorem tokenMissed_total (o : Owner) (s : State) : ∃ t, tokenMissed o s = .next t :=
  needReg_total fun _ _ => ite_total ⟨_, rfl⟩ ⟨_, rfl⟩

theorem advancePower_total (p : PowerPos) (s : State) : ∃ t, advancePower p s = .next t := by
  cases p with
  | primeXfer k => simp only [advancePower]; split <;> exact ⟨_, rfl⟩
  | _ => exact ⟨_, rfl⟩

theorem advanceFrame_total (c : Site) (p : FramePos) (s : State) : ∃ t, advanceFrame c p s = .next t := by
  cases p with
  | csLow => exact needReg_total fun _ _ => needReg_total fun _ _ => ⟨_, rfl⟩
  | xfer i => exact needReg_total fun _ _ => by dsimp only; split <;> exact ⟨_, rfl⟩
  | csHigh => exact ⟨_, rfl⟩

theorem advanceR1_total (c : Site) (p : R1Pos) (s : State) : ∃ t, advanceR1 c p s = .next t := by
  cases p with
  | pollCsHigh =>
    exact needReg_total fun b _ => ite_total (ite_total ⟨_, rfl⟩ (r1Return_total c b _)) (pollMissed_total c b _)
  | extraCsHigh => exact needReg_total fun b _ => r1Return_total c b _
  | _ => exact ⟨_, rfl⟩

theorem advanceDelay_total (d : RetryWait) (s : State) : ∃ t, advanceDelay d s = .next t :=
  needReg_total fun _ _ => by cases d <;> exact ⟨_, rfl⟩

/-- A write inside its buffer goes on (R64). -/
theorem memWrite_total {off n : Nat} (h : off + n ≤ 512) (b : Buf) (v : Byte) (s : State) :
    ∃ t, memWrite b off n v s = .next t := by
  obtain ⟨t, ht, -⟩ := memWrite_of (b := b) (v := v) (s := s) h
  exact ⟨t, ht⟩

/-- A position of BLOCK_READ goes on, a data exchange while its index is inside the buffer (R64, R200). -/
theorem advanceBlock_total (o : Owner) {p : BlockPos} {s : State}
    (h : p = .data → ∀ i, s.w.i = some i → i.toNat < 512) : ∃ t, advanceBlock o p s = .next t := by
  cases p with
  | check => exact ite_total ⟨_, rfl⟩ ⟨_, rfl⟩
  | zero => exact needReg_total fun b _ => memWrite_total (by decide) b _ _
  | arg => exact needReg_total fun x _ => by split <;> exact ⟨_, rfl⟩
  | tokenPoll => exact ite_total ⟨_, rfl⟩ (tokenMissed_total o _)
  | data =>
    refine needReg_total fun i hi => needReg_total fun b _ => ?_
    obtain ⟨u, hu⟩ := memWrite_total (off := i.toNat) (n := 1) (h rfl i hi) b (nextByte s) (xfer Params.idleByte s)
    dsimp only; rw [hu]; exact ⟨_, rfl⟩
  | crc => exact needReg_total fun _ _ => ite_total ⟨_, rfl⟩ ⟨_, rfl⟩
  | dataCsLow | dataCsHigh => exact ⟨_, rfl⟩

/-- A position goes on, but in FAULT and at a data exchange past its buffer. -/
theorem advance_total {s : State} (hf : s.ctl ≠ .fault)
    (hd : ∀ o, s.ctl = .block o .data → ∀ i, s.w.i = some i → i.toNat < 512) : ∃ t, advance s = .next t := by
  cases hc : s.ctl with
  | idle => exact ⟨s, by simp only [advance, hc]⟩
  | power p => simpa only [advance, hc] using advancePower_total p s
  | frame c p => simpa only [advance, hc] using advanceFrame_total c p s
  | r1 c p => simpa only [advance, hc] using advanceR1_total c p s
  | delay d => simpa only [advance, hc] using advanceDelay_total d s
  | setMode => simpa only [advance, hc] using ⟨_, rfl⟩
  | block o p => simpa only [advance, hc] using advanceBlock_total o fun hp => hd o (hp ▸ hc)
  | fault => exact absurd hc hf

/-- The steps of a busy engine go on where its positions do. -/
theorem step_busy_total {s : State} (hi : s.ctl ≠ .idle) (ha : ∃ t, advance s = .next t) : ∃ t, step s = .next t := by
  by_cases hf : ∃ c, s.ctl = .frame c .csLow
  · obtain ⟨c, hc⟩ := hf
    cases hx : s.w.idx with
    | none => rw [step_frame_unwritten hc (.inl hx)]; exact ha
    | some x =>
      cases hy : s.w.arg with
      | none => rw [step_frame_unwritten hc (.inr hy)]; exact ha
      | some a => exact ⟨_, step_frame hc hx hy⟩
  by_cases hr : ∃ c, s.ctl = .r1 c .pollCsLow
  · obtain ⟨c, hc⟩ := hr
    rw [step_r1 hc]
    exact ite_total (ite_total (r1Return_total c _ _) (r1Return_total c _ _)) (pollMissed_total c _ _)
  by_cases ht : ∃ o, s.ctl = .block o .tokenPoll
  · obtain ⟨o, hc⟩ := ht
    rw [step_tokenPoll hc]; exact ha
  · rw [step_eq_advance hi (not_exists.1 hf) (not_exists.1 hr) (not_exists.1 ht)]; exact ha

/-! ### The host requests -/

/-- A busy engine accepts no request (R37, D14). -/
theorem whenIdle_busy {s : State} (hi : s.ctl ≠ .idle) (hf : s.ctl ≠ .fault) (k : State) :
    whenIdle s k = .refused .portBusy := by
  unfold whenIdle; split
  · contradiction
  · contradiction
  · rfl

theorem execInit_idle {s : State} (h : s.ctl = .idle) :
    exec .init s = .next { s with mode := .none, w := Work.empty, ctl := .power .pwrOff } := whenIdle_of h _

theorem execReadSector_idle {s : State} (h : s.ctl = .idle) (sector buf : U32) :
    exec (.readSector sector buf) s = .next { s with
      w := { Work.empty with sector := some sector, buf := some (.caller buf) }, ctl := .block .host .check } :=
  whenIdle_of h _

/-- Settles O22: the guard of a request lets the idle engine through. -/
theorem requestsAreAccepted : Obligations.RequestsAreAccepted :=
  fun _ h => ⟨⟨execInit_idle h, rfl⟩, fun sector buf => ⟨execReadSector_idle h sector buf, rfl⟩⟩

/-- Settles O23: the guard of a request refuses while busy; the port's decoder rejects every other op code. -/
theorem otherRequestsAreRefused : Obligations.OtherRequestsAreRefused := by
  refine ⟨fun s sector buf hi hf => ⟨whenIdle_busy hi hf _, whenIdle_busy hi hf _⟩, fun s op rest h hp h1 h2 => ?_⟩
  have hd : decode .host s.port = .rejected (.unknownOpcode op) := by
    rw [hp]; exact (if_neg h1).trans (if_neg h2)
  simp only [step, fetch, h, hd, fetched]

/-- At an idle engine with nothing or a request at its port a step goes on (R37, R261). -/
theorem step_idle_total {s : State} (h : s.ctl = .idle)
    (hp : s.port = [] ∨ ∃ i rest, decode .host s.port = .ok i rest) : ∃ t, step s = .next t := by
  rcases hp with hp | ⟨i, rest, hd⟩
  · exact ⟨s, by simp only [step, fetch, h, hp, decode, decodeHost, fetched]⟩
  · rw [stepRunsDecodedInstruction.1 s i rest h hd]
    rcases decodeHost_ok hd with rfl | ⟨sector, buf, rfl⟩
    · exact ⟨_, execInit_idle h⟩
    · exact ⟨_, execReadSector_idle (s := { s with port := rest }) h sector buf⟩

/-- In a legal state a data exchange's index is inside the buffer (R28). -/
theorem Inv.data_index {s : State} {o : Owner} {i : StreamIndex} (hi : Inv s) (hc : s.ctl = .block o .data)
    (h : s.w.i = some i) : i.toNat < 512 := by
  obtain ⟨-, n, hn, -, hle⟩ := hi.regs_at hc
  cases h.symm.trans hn
  exact Nat.lt_succ_of_le hle

/-- No step from a legal state raises the model fault of an unwritten register (R28). -/
theorem Inv.step_written {s t : State} (hi : Inv s) (hf : s.ctl ≠ .fault) (h : step s = .next t) (r : WorkReg) :
    t.fault ≠ some (.unwrittenRegister r) := by
  intro ht
  have hc : t.ctl = .fault := ((step_next h).mark hi).1 (by rw [ht]; rfl)
  obtain ⟨n, u, hn, rfl, -⟩ := (step_next h).raises hc hf
  cases Option.some.inj ht
  rcases hn with ⟨h, -⟩ | ⟨h, -⟩ | ⟨r', -, hr, hh⟩
  · cases h
  · cases h
  · rw [hi.holds hr] at hh; cases hh

/-- Settles O54: the positions of a legal state go on, and no step reads a register before it is written. -/
theorem legalStatesNeverStop : Obligations.LegalStatesNeverStop := by
  intro s hi hf hp
  have hs : ∃ t, step s = .next t := by
    by_cases h : s.ctl = .idle
    · exact step_idle_total h (hp h)
    · exact step_busy_total h (advance_total hf fun o hc i => hi.data_index hc)
  obtain ⟨t, ht⟩ := hs
  exact ⟨t, ht, hi.step_written hf ht⟩

/-! ### Reset -/

/-- Settles O1, field by field. -/
theorem engineResetLeavesResetValues : Obligations.EngineResetLeavesResetValues :=
  fun _ => ⟨rfl, rfl, rfl, rfl, rfl, rfl, rfl, rfl⟩

/-- Settles O2: the idle state with Mode NONE, no mark and empty buffers meets each part of the invariant. -/
theorem resetStateIsLegal : Obligations.ResetStateIsLegal where
  left := {
    cs := rfl
    mark := ⟨nofun, nofun⟩
    mem := reset_mem_wf.1
    scratch := reset_mem_wf.2
    scratchSize := nofun
    mode := modeOk_idle _
    pwr := (pwrOk_idle _ _).2 fun h => absurd rfl h
    regs := rfl }
  right := rfl

/-! ### The framer used alone -/

/-- The bytes of a frame register are those of the frame (R71, R100). -/
theorem Frame.build_bytes (x : Index) (a : U32) :
    [(Frame.build x a).b0, (Frame.build x a).b1, (Frame.build x a).b2, (Frame.build x a).b3, (Frame.build x a).b4,
      (Frame.build x a).b5] = frameBytes x a := rfl

/-- Each of the six command instructions is the framer on the pair its encoding is built of (R107 to R112). -/
theorem exec_command {i : Instr} (h : i.stream = .frame) :
    ∃ x a, encode i = frameBytes x a ∧ ∀ s, exec i s = unlessFaulted s (.next (frameProc x a s)) := by
  cases i with
  | cmd0 | cmd8 | cmd17 | cmd55 | acmd41 | cmdN => exact ⟨_, _, rfl, fun _ => rfl⟩
  | _ => cases h

/-- Settles O18, by the framer's two laws for its use alone. -/
theorem framerAloneSendsFrame : Obligations.FramerAloneSendsFrame := by
  intro i s hi hf hc
  obtain ⟨x, a, he, hx⟩ := exec_command hi
  refine ⟨Frame.build x a, by rw [Frame.build_bytes, he], fun h => ?_, fun h => ?_⟩
  · rw [hx, unlessFaulted_of hf, frameProc_busy h hc]
  · rw [hx, unlessFaulted_of hf, frameProc_idle h]

/-! ### The check and the wire argument -/

/-- At a position of BLOCK_READ a step is that position. -/
theorem step_block {s : State} {o : Owner} {p : BlockPos} (h : s.ctl = .block o p) : step s = advanceBlock o p s := by
  have ha : advance s = advanceBlock o p s := by simp only [advance, h]
  by_cases hp : p = .tokenPoll
  · subst hp; rw [step_tokenPoll h, ha]
  · rw [← ha]; exact step_eq_advance (by simp [h]) (by simp [h]) (by simp [h]) (by simp [h, hp])

/-- Settles O38: the check's two branches. -/
theorem noneModeRaisesNotReady : Obligations.NoneModeRaisesNotReady := by
  intro s o h
  rw [step_block h, advanceBlock]
  exact ⟨fun hm => if_pos hm, fun hm => if_neg hm⟩

/-- At the wire argument's position a step calls FRAME of index 17 with it (R193). -/
theorem step_arg_ok {s : State} {o : Owner} {x a : U32} (h : s.ctl = .block o .arg) (hx : s.w.sector = some x)
    (ha : wireArg s.mode x = .ok a) : step s = .next (callFrame (.block o) Params.readIndex a s) := by
  simp only [step_block h, advanceBlock, hx, needReg_some, ha]

/-- At the wire argument's position a step raises the fault that WIRE_ARG names (R194). -/
theorem step_arg_error {s : State} {o : Owner} {x : U32} {n : FaultName} (h : s.ctl = .block o .arg)
    (hx : s.w.sector = some x) (ha : wireArg s.mode x = .error n) : step s = .next (raiseFault n s) := by
  simp only [step_block h, advanceBlock, hx, needReg_some, ha]

/-- Settles O40, by the cases of WIRE_ARG. -/
theorem wireArgumentByMode : Obligations.WireArgumentByMode := by
  intro s o x h hx
  refine ⟨fun hm => ?_, fun hm hlt => ⟨x <<< 9, wireArg_sdsc_toNat hlt, ?_⟩, fun hm hge => ?_⟩
  · exact step_arg_ok h hx (by rw [hm]; rfl)
  · exact step_arg_ok h hx (by rw [hm, wireArg, if_pos hlt])
  · exact step_arg_error h hx (by rw [hm, wireArg, if_neg (Nat.not_lt.2 hge)])

/-! ### Card power and results -/

/-- Settles O46: of the cases of a step only the two power positions write card power. -/
theorem powerHasOneWriter : Obligations.PowerHasOneWriter := by
  intro s t h hp
  cases step_next h with
  | pwrOff hc => exact .inl ⟨hc, rfl⟩
  | pwrOn hc => exact .inr ⟨hc, rfl⟩
  | exhausted | token | vendor | pollToken | pollExhausted | extraCsHigh =>
    have ha := ‹R1Answer _ _ _ t›
    exact absurd ha.unchanged.1 hp
  | zeroed o b t _ _ hw | data o i b u _ _ _ hw => rw [memWrite_eq hw] at hp; exact absurd rfl hp
  | close o found => cases o <;> cases found <;> exact absurd rfl hp
  | _ => exact absurd rfl hp

/-- The results a step from `s` to `t` delivers: one where a busy engine becomes idle, none elsewhere (R38, R230). -/
def DeliversAtEnd (s t : State) : Prop :=
  (s.ctl ≠ .idle ∧ t.ctl = .idle ∧ ∃ r, t.completions = s.completions ++ [r]) ∨
    ((s.ctl = .idle ∨ t.ctl ≠ .idle) ∧ t.completions = s.completions)

/-- An answer of READ_R1 to a busy engine delivers a result where it ends the request. -/
theorem R1Answer.deliversAtEnd {s u t : State} {c : Site} {p : R1Pos} {r : Byte} (h : R1Answer u r c t)
    (hc : s.ctl = .r1 c p) (hu : u.completions = s.completions) : DeliversAtEnd s t := by
  rcases h.goesOn_or_ends with ⟨hi, -, he, -⟩ | ⟨hi, -, he⟩
  · exact .inr ⟨.inr hi, he.trans hu⟩
  · exact .inl ⟨by simp [hc], hi, hu ▸ he⟩

/-- Settles O50, by the cases of a step. -/
theorem oneResultPerRequest : Obligations.OneResultPerRequest := by
  intro s t h
  cases step_next h with
  | wait hc | init _ hc | read _ _ _ hc => exact .inr ⟨.inl hc, rfl⟩
  | exhausted c _ _ hc | token c _ hc | vendor c _ hc | pollToken c _ _ hc | pollExhausted c _ _ _ hc
  | extraCsHigh c _ _ hc =>
    have ha := ‹R1Answer _ _ _ t›
    exact ha.deliversAtEnd hc rfl
  | missed c k hc => exact .inr ⟨.inr (by simp [polled, hc]), rfl⟩
  | zeroed o b t _ _ hw | data o i b u _ _ _ hw => rw [memWrite_eq hw]; exact .inr ⟨.inr nofun, rfl⟩
  | close o found hc => exact .inl ⟨by simp [hc], by cases o <;> cases found <;> exact ⟨rfl, _, rfl⟩⟩
  | _ => exact .inr ⟨.inr nofun, rfl⟩

/-! ### What the Response Reader classes leave alone -/

/-- What a Response Reader class at a site leaves of the state `s` (R28, R130, R168, R230): the request runs on, or it
ended with one result, or reading a register without value ended it by the model fault. -/
def LeavesRest (c : Site) (s t : State) : Prop :=
  (t.mode = s.mode ∨ (c = .block .probe ∧ t.mode = .none)) ∧
  t.pwr = s.pwr ∧ t.port = s.port ∧ (∀ b k, bufRead b k t = bufRead b k s) ∧
  ((t.ctl ≠ .idle ∧ t.ctl ≠ .fault ∧ t.fault = s.fault ∧ t.completions = s.completions ∧ t.w = { s.w with
      tok := t.w.tok, poll := t.w.poll, attempt := t.w.attempt, idx := t.w.idx, arg := t.w.arg }) ∨
    (t.ctl = .idle ∧ t.fault = s.fault ∧ t.w = Work.empty ∧ ∃ r, t.completions = s.completions ++ [r]) ∨
    (t.ctl = .fault ∧ t.w = Work.empty ∧ t.completions = s.completions ∧
      ∃ r, t.fault = some (.unwrittenRegister r) ∧ s.w.holds r = false))

/-- The state `u` is `s` but for chip-select, the trace, the card and the register `tok`: what exchanges of READ_R1
leave (R130, R131). -/
def ExchangedFrom (s u : State) : Prop :=
  u = { s with cs := u.cs, trace := u.trace, card := u.card, draws := u.draws, w := { s.w with tok := u.w.tok } }

/-- The contents of the buffers are the two memories'. -/
theorem bufRead_congr {s t : State} (hm : t.mem = s.mem) (hs : t.scratch = s.scratch) (b : Buf) (k : Nat) :
    bufRead b k t = bufRead b k s := by cases b <;> simp only [bufRead, hm, hs]

/-- The model fault of a register that held no value, raised after exchanges of READ_R1. -/
theorem LeavesRest.unwritten {c : Site} {s u : State} {r : WorkReg} (hu : ExchangedFrom s u) (hr : s.w.holds r = false) :
    LeavesRest c s (raiseFault (.unwrittenRegister r) u) := by
  rw [hu]
  exact ⟨.inl rfl, rfl, rfl, fun _ _ => rfl, .inr (.inr ⟨rfl, rfl, rfl, r, rfl, hr⟩)⟩

/-- An answer of READ_R1 after its exchanges. -/
theorem R1Answer.leavesRest {c : Site} {s u t : State} {r : Byte} (h : R1Answer u r c t) (hu : ExchangedFrom s u) :
    LeavesRest c s t := by
  obtain ⟨hp, hf, ho, hm, hs⟩ := h.unchanged
  have hd := h.mode_eq_or_none
  have he := h.goesOn_or_ends
  rw [hu] at hp hf ho hm hs hd he
  refine ⟨hd, hp, ho, bufRead_congr hm hs, ?_⟩
  rcases he with ⟨h1, h2, h3, h4⟩ | ⟨h1, h2, h3⟩
  · exact .inl ⟨h1, h2, hf, h3, by rw [h4]⟩
  · exact .inr (.inl ⟨h1, hf, h2, h3⟩)

theorem r1Return_leavesRest {c : Site} {s u t : State} {r : Byte} (h : r1Return c r u = .next t)
    (hu : ExchangedFrom s u) : LeavesRest c s t := by
  rcases r1Return_next h with h | ⟨-, hn, rfl⟩
  · exact h.leavesRest hu
  · refine .unwritten hu ?_
    have hn : s.w.attempt = none := by rw [hu] at hn; exact hn
    simp only [Work.holds, hn, Option.isSome_none]

theorem pollMissed_leavesRest {c : Site} {s u t : State} {b : Byte} (h : pollMissed c b u = .next t)
    (hu : ExchangedFrom s u) : LeavesRest c s t := by
  rcases needReg_next.1 h with ⟨k, -, h⟩ | ⟨hn, rfl⟩
  · split at h
    · cases h
      rw [hu]
      exact ⟨.inl rfl, rfl, rfl, fun _ _ => rfl, .inl ⟨nofun, nofun, rfl, rfl, rfl⟩⟩
    · exact r1Return_leavesRest h hu
  · refine .unwritten hu ?_
    have hn : s.w.poll = none := by rw [hu] at hn; exact hn
    simp only [Work.holds, hn, Option.isSome_none]

/-- A Response Reader class goes on at a poll alone, and leaves what READ_R1's return or its next poll leaves. -/
theorem exec_r1_leavesRest {i : Instr} {s t : State} (hi : i.stream = .r1) (h : exec i s = .next t) :
    ∃ c, s.ctl = .r1 c .pollCsLow ∧ LeavesRest c s t := by
  cases i with
  | rxR1NotArrived b => obtain ⟨c, hc, h⟩ := atR1Poll_next h; exact ⟨c, hc, pollMissed_leavesRest h rfl⟩
  | rxR1Vendor => obtain ⟨c, hc, h⟩ := atR1Poll_next h; exact ⟨c, hc, r1Return_leavesRest h rfl⟩
  | rxR1Token f => obtain ⟨c, hc, h⟩ := atR1Poll_next h; exact ⟨c, hc, r1Return_leavesRest h rfl⟩
  | _ => cases hi

/-- Settles O28: what the classes leave at the site whose poll they answer. -/
theorem readR1ClassesLeaveRestUnchanged : Obligations.ReadR1ClassesLeaveRestUnchanged := by
  intro i s t hi h
  obtain ⟨c, hc, hm, hrest⟩ := exec_r1_leavesRest hi h
  exact ⟨hm.imp_right fun ⟨e, hn⟩ => ⟨e ▸ hc, hn⟩, hrest⟩

/-! ### Noninterference of the buffers (R29, R50)

Every operation commutes with `State.blind`, which empties the buffers; so a step of a state and of its blind image have
outcomes that are alike but for the buffers. -/

@[simp] theorem blind_ctl (s : State) : s.blind.ctl = s.ctl := rfl
@[simp] theorem blind_w (s : State) : s.blind.w = s.w := rfl
@[simp] theorem blind_mode (s : State) : s.blind.mode = s.mode := rfl

/-- Two outcomes that differ in the buffers' contents alone. -/
def BlindEq (o o' : Out) : Prop := blindOut o = blindOut o'

/-- A next state and its blind image. -/
theorem BlindEq.next (s : State) : BlindEq (.next s) (.next s.blind) := rfl

theorem BlindEq.needReg {α : Type} (v : Option α) (r : WorkReg) (s : State) {k k' : α → Out}
    (h : ∀ x, BlindEq (k x) (k' x)) : BlindEq (needReg v r s k) (needReg v r s.blind k') := by
  cases v with
  | none => exact .next _
  | some x => exact h x

theorem BlindEq.ite {p : Prop} [Decidable p] {a a' b b' : Out} (ha : BlindEq a a') (hb : BlindEq b b') :
    BlindEq (if p then a else b) (if p then a' else b') := by split <;> assumption

theorem blockReturn_blind (o : Owner) (e : Option ReadError) (s : State) :
    blockReturn o e s.blind = (blockReturn o e s).blind := by
  cases o <;> cases e <;> rfl

theorem blind_r1Return (c : Site) (r : Byte) (s : State) : BlindEq (r1Return c r s) (r1Return c r s.blind) := by
  cases c with
  | app55 => exact .next _
  | goIdle | ifCond | acmd41 => exact .ite (.next _) (.needReg _ _ _ fun _ => .ite (.next _) (.next _))
  | block o => exact .ite (.next _) (by rw [blockReturn_blind]; exact .next _)

theorem blind_pollMissed (c : Site) (b : Byte) (s : State) : BlindEq (pollMissed c b s) (pollMissed c b s.blind) :=
  .needReg _ _ _ fun _ => .ite (.next _) (blind_r1Return c b s)

theorem blind_tokenMissed (o : Owner) (s : State) : BlindEq (tokenMissed o s) (tokenMissed o s.blind) :=
  .needReg _ _ _ fun _ => .ite (.next _) (.next _)

theorem blind_memWrite (b : Buf) (off n : Nat) (v : Byte) (s : State) :
    BlindEq (memWrite b off n v s) (memWrite b off n v s.blind) := by
  cases b <;> exact .ite (Eq.refl _) (Eq.refl _)

theorem frameReturn_blind (s : State) : frameReturn s.blind = (frameReturn s).blind := by
  unfold frameReturn; rw [blind_ctl]; split <;> rfl

theorem frameProc_blind (x : Index) (a : U32) (s : State) : frameProc x a s.blind = (frameProc x a s).blind :=
  frameReturn_blind (setCs .high (sendFrame (Frame.build x a) (setCs .low (buildFrame x a s))))

/-- The guards of the meanings read the control state and the fault mark alone. -/
theorem blind_unlessFaulted (s : State) {k k' : Out} (h : BlindEq k k') :
    BlindEq (unlessFaulted s k) (unlessFaulted s.blind k') := by
  unfold unlessFaulted; rw [blind_ctl]; split
  · exact Eq.refl _
  · exact h

theorem blind_whenIdle (s k : State) : BlindEq (whenIdle s k) (whenIdle s.blind k.blind) := by
  unfold whenIdle; rw [blind_ctl]; split <;> exact Eq.refl _

theorem blind_atR1Poll (s : State) {k k' : Site → Out} (h : ∀ c, BlindEq (k c) (k' c)) :
    BlindEq (atR1Poll s k) (atR1Poll s.blind k') := by
  unfold atR1Poll; rw [blind_ctl]; split
  · exact h _
  all_goals exact Eq.refl _

theorem blind_atTokenPoll (s : State) {k k' : Owner → Out} (h : ∀ o, BlindEq (k o) (k' o)) :
    BlindEq (atTokenPoll s k) (atTokenPoll s.blind k') := by
  unfold atTokenPoll; rw [blind_ctl]; split
  · exact h _
  all_goals exact Eq.refl _

/-- No instruction reads a buffer. -/
theorem blind_exec (i : Instr) (s : State) : BlindEq (exec i s) (exec i s.blind) := by
  cases i with
  | cmd0 | cmd8 | cmd17 | cmd55 | acmd41 | cmdN =>
    exact blind_unlessFaulted s (by rw [frameProc_blind]; exact .next _)
  | init | readSector => exact blind_whenIdle s _
  | rxR1NotArrived => exact blind_atR1Poll s fun c => blind_pollMissed c _ _
  | rxR1Vendor | rxR1Token => exact blind_atR1Poll s fun c => blind_r1Return c _ _
  | rxDataToken => exact blind_atTokenPoll s fun o => .next _
  | rxDataBusy => exact blind_atTokenPoll s fun o => blind_tokenMissed o _

theorem blind_advancePower (p : PowerPos) (s : State) : BlindEq (advancePower p s) (advancePower p s.blind) := by
  cases p with
  | primeXfer k => simp only [advancePower]; split <;> exact .next _
  | _ => exact .next _

theorem blind_advanceFrame (c : Site) (p : FramePos) (s : State) :
    BlindEq (advanceFrame c p s) (advanceFrame c p s.blind) := by
  cases p with
  | csLow => exact .needReg _ _ _ fun _ => .needReg _ _ _ fun _ => .next _
  | xfer i => exact .needReg _ _ _ fun _ => by dsimp only; split <;> exact .next _
  | csHigh => exact .next _

theorem blind_advanceR1 (c : Site) (p : R1Pos) (s : State) : BlindEq (advanceR1 c p s) (advanceR1 c p s.blind) := by
  cases p with
  | pollCsHigh =>
    exact .needReg _ _ _ fun b => .ite (.ite (.next _) (blind_r1Return c b _)) (blind_pollMissed c b _)
  | extraCsHigh => exact .needReg _ _ _ fun b => blind_r1Return c b _
  | _ => exact .next _

theorem blind_advanceDelay (d : RetryWait) (s : State) : BlindEq (advanceDelay d s) (advanceDelay d s.blind) :=
  .needReg _ _ _ fun _ => by cases d <;> exact .next _

theorem blind_advanceData (o : Owner) (s : State) : BlindEq (advanceData o s) (advanceData o s.blind) := by
  refine .needReg _ _ _ fun i => .needReg _ _ _ fun b => ?_
  by_cases h : i.toNat + 1 ≤ Params.sectorSize
  · cases b <;> simp only [memWrite, if_pos h] <;> exact .next _
  · simp only [memWrite, if_neg h]; exact Eq.refl _

theorem blind_advanceBlock (o : Owner) (p : BlockPos) (s : State) :
    BlindEq (advanceBlock o p s) (advanceBlock o p s.blind) := by
  cases p with
  | check => exact .ite (.next _) (.next _)
  | zero => exact .needReg _ _ _ fun b => blind_memWrite b _ _ _ _
  | arg => exact .needReg _ _ _ fun x => by rw [blind_mode]; split <;> exact .next _
  | tokenPoll => exact .ite (.next _) (blind_tokenMissed o _)
  | data => exact blind_advanceData o s
  | crc => exact .needReg _ _ _ fun _ => .ite (.next _) (.next _)
  | dataCsLow => exact .next _
  | dataCsHigh found => simp only [advanceBlock]; exact (blockReturn_blind o _ (setCs .high s)) ▸ .next _

/-- No position reads a buffer. -/
theorem blind_advance (s : State) : BlindEq (advance s) (advance s.blind) := by
  simp only [advance, blind_ctl]; split
  · exact .next _
  · exact blind_advancePower _ _
  · exact blind_advanceFrame _ _ _
  · exact blind_advanceR1 _ _ _
  · exact blind_advanceDelay _ _
  · exact .next _
  · exact blind_advanceBlock _ _ _
  · exact Eq.refl _

/-- What a fetch finds, without the contents of any buffer. -/
def Fetched.blind : Fetched → Fetched
  | .run i s => .run i s.blind
  | f => f

theorem fetched_blind (d : Decoded) (f : List Byte → State) :
    fetched d (fun rest => (f rest).blind) = (fetched d f).blind := by
  cases d with
  | ok i rest => rfl
  | rejected e => cases e <;> rfl

/-- No fetch reads a buffer. -/
theorem fetch_blind (s : State) : fetch s.blind = (fetch s).blind := by
  have hf : fetchFrame s.blind = (fetchFrame s).blind := by
    simp only [fetchFrame, blind_w]; split <;> rfl
  simp only [fetch, blind_ctl]; split
  · exact fetched_blind _ fun rest => { s with port := rest }
  · exact hf
  · exact fetched_blind _ fun _ => s
  · exact fetched_blind _ fun _ => s
  · rfl
  · rfl

/-- No step reads a buffer. -/
theorem blind_step (s : State) : BlindEq (step s) (step s.blind) := by
  simp only [step, fetch_blind]
  cases fetch s with
  | run i t => exact blind_exec i t
  | wait => exact .next s
  | position => exact blind_advance s
  | stop f => exact Eq.refl _
  | refuse r => exact Eq.refl _

/-- Settles O49: two states alike but for the buffers have one blind image, and a step of each is a step of that. -/
theorem buffersAreNeverRead : Obligations.BuffersAreNeverRead := by
  intro s t h
  calc blindOut (step s)
    _ = blindOut (step s.blind) := blind_step s
    _ = blindOut (step t.blind) := by rw [h]
    _ = blindOut (step t) := (blind_step t).symm

end Sys2Proof.Machine

/-! SUPPORT and PROOFS of the statements about the buffers: who writes them, the data stream, and a whole READ_SECTOR
request in SDHC. -/

namespace Sys2Proof.Machine

/-! ### The two positions that write a buffer -/

/-- Settles O39: the zero-fill is one buffer write over all 512 offsets. -/
theorem zeroFillClearsBuffer : Obligations.ZeroFillClearsBuffer := by
  intro s o b hc hb
  obtain ⟨t, hw, he, hr⟩ :=
    memWrite_of (b := b) (off := 0) (n := 512) (v := 0x00) (s := { s with ctl := .block o .arg }) (by decide)
  have hs : step s = .next t := by rw [step_block hc, advanceBlock, hb, needReg_some]; exact hw
  refine ⟨t, hs, fun k hk => ?_, fun b' k hb' hk => ?_, he⟩
  · rw [hr b k hk, if_pos ⟨rfl, k.zero_le, by omega⟩]
  · rw [hr b' k hk, if_neg fun h => hb' h.1]; rfl

/-- Settles O41: a data exchange is one buffer write of one byte. -/
theorem dataByteGoesToItsOffset : Obligations.DataByteGoesToItsOffset := by
  intro s o b i hc hb hi hlt
  obtain ⟨u, hw, he, hr⟩ := memWrite_of (b := b) (v := nextByte s) (s := xfer 0xFF s) (show i.toNat + 1 ≤ 512 from hlt)
  have hw : memWrite b i.toNat 1 (nextByte s) (xfer Params.idleByte s) = .next u := hw
  have hp : (if i.toNat + 1 < Params.sectorSize then BlockPos.data else .crc) = if i = 511 then .crc else .data := by
    have : i.toNat + 1 < Params.sectorSize ↔ ¬ i = 511 := by simp only [Params.sectorSize]; bv_omega
    simp only [this, ite_not]
  have hs : step s = .next { u with
      w := { u.w with i := some (i + 1) }, ctl := .block o (if i = 511 then .crc else .data) } := by
    simp only [step_block hc, advanceBlock, advanceData, hi, hb, needReg_some, hw, hp]
  refine ⟨_, hs, ?_, fun b' k hk hd => ?_, ?_⟩
  · have h := hr b i.toNat hlt
    rw [if_pos ⟨rfl, Nat.le_refl _, Nat.lt_succ_self _⟩, nextByte_eq_drawn] at h
    exact h
  · have h := hr b' k hk
    rw [if_neg fun ⟨h1, h2, h3⟩ => hd.elim (· h1) (· (by omega))] at h
    exact h
  · rw [he, xfer_eq_exchanged]; rfl

/-- A byte that a buffer write changes is of the buffer written (R64). -/
theorem memWrite_writes_own {b b' : Buf} {off n k : Nat} {v : Byte} {s t : State} (h : memWrite b off n v s = .next t)
    (hk : k < 512) (hne : bufRead b' k t ≠ bufRead b' k s) : b' = b := by
  obtain ⟨hn, -⟩ := memWrite_next h
  obtain ⟨u, hu, -, hr⟩ := memWrite_of (b := b) (v := v) (s := s) hn
  cases h.symm.trans hu
  by_contra hb
  exact hne (by rw [hr b' k hk, if_neg fun h => hb h.1])

/-- Settles O48: of the cases of a step only the zero-fill and the data exchange touch memory, and each is a write of
the buffer in the register `buf`. -/
theorem onlyTheRequestsBufferIsWritten : Obligations.OnlyTheRequestsBufferIsWritten := by
  intro s t b k h hk hne
  cases step_next h with
  | zeroed o b' t hc hb hw =>
    cases memWrite_writes_own hw hk hne
    exact ⟨hb, o, .inl hc⟩
  | data o i b' u hc _ hb hw =>
    cases memWrite_writes_own hw hk hne
    exact ⟨hb, o, .inr hc⟩
  | exhausted | token | vendor | pollToken | pollExhausted | extraCsHigh =>
    obtain ⟨-, -, -, hm, hs⟩ := (‹R1Answer _ _ _ t›).unchanged
    exact absurd (bufRead_congr hm hs b k) hne
  | close o found => cases o <;> cases found <;> exact absurd rfl hne
  | _ => exact absurd rfl hne

/-! ### Runs of steps -/

/-- A run of steps that goes on is continued from where it arrived. -/
theorem runSteps_add {m : Nat} {s t : State} (n : Nat) (h : runSteps m s = .next t) :
    runSteps (m + n) s = runSteps n t := by
  induction m generalizing s with
  | zero => cases h; rw [Nat.zero_add]
  | succ m ih =>
    simp only [runSteps, Nat.succ_add] at h ⊢
    cases hs : step s with
    | next u => rw [hs] at h; exact ih h
    | fault f => rw [hs] at h; cases h
    | refused r => rw [hs] at h; cases h

theorem runSteps_one (s : State) : runSteps 1 s = step s := by
  simp only [runSteps]
  cases step s <;> rfl

/-! ### The data stream (R200) -/

/-- `s` after `d` exchanges that recorded the events `es`. -/
def heard (d : Nat) (es : List Event) (s : State) : State :=
  { s with trace := s.trace ++ es, card := s.card.drop d, draws := s.draws + d }

@[simp] theorem drawn_heard (d : Nat) (es : List Event) (s : State) (n : Nat) :
    drawn (heard d es s) n = drawn s (d + n) := by simp only [drawn, heard, List.drop_drop, Nat.add_assoc]

theorem heard_heard (d d' : Nat) (es es' : List Event) (s : State) :
    heard d' es' (heard d es s) = heard (d + d') (es ++ es') s := by
  simp only [heard, List.append_assoc, List.drop_drop, Nat.add_assoc]

theorem exchanged_eq_heard (s : State) (out : Byte) : exchanged s out = heard 1 [.xfer out (drawn s 0)] s := by
  simp [exchanged, heard]

/-- The events of the next `n` data exchanges. -/
def dataEventsOf (s : State) (n : Nat) : List Event := (List.range n).map fun k => .xfer 0xFF (drawn s k)

/-- The first `n` exchanges of the data stream put the bytes received at offsets 0 to `n - 1`. -/
theorem runSteps_data {s : State} {o : Owner} {b : Buf} (hc : s.ctl = .block o .data) (hb : s.w.buf = some b)
    (hi : s.w.i = some 0) {n : Nat} (hn : n ≤ 512) :
    ∃ t, runSteps n s = .next t ∧ (∀ k, k < n → bufRead b k t = some (drawn s k)) ∧
      (∀ b' k, k < 512 → (b' ≠ b ∨ n ≤ k) → bufRead b' k t = bufRead b' k s) ∧
      t = { heard n (dataEventsOf s n) s with
        ctl := .block o (if n = 512 then .crc else .data), w := { s.w with i := some (BitVec.ofNat 10 n) }
        mem := t.mem, scratch := t.scratch } := by
  induction n with
  | zero =>
    refine ⟨s, rfl, nofun, fun _ _ _ _ => rfl, ?_⟩
    have hw : { s.w with i := some (BitVec.ofNat 10 0) } = s.w := by rw [show BitVec.ofNat 10 0 = 0 from rfl, ← hi]
    simp [hw, ← hc, heard, dataEventsOf]
  | succ n ih =>
    obtain ⟨t, ht, hown, hother, he⟩ := ih (by omega)
    have hctl : t.ctl = .block o .data := by rw [he, if_neg (by omega)]
    have hw : t.w = { s.w with i := some (BitVec.ofNat 10 n) } := by rw [he]
    have hd : drawn t 0 = drawn s n := by rw [he]; exact drawn_heard n (dataEventsOf s n) s 0
    have hin : (BitVec.ofNat 10 n).toNat = n := by simp; omega
    obtain ⟨u, hu, hat, hrest, hue⟩ :=
      dataByteGoesToItsOffset t o b (BitVec.ofNat 10 n) hctl (by rw [hw]; exact hb) (by rw [hw]) (by omega)
    rw [hin, hd] at hat
    rw [hin] at hrest
    refine ⟨u, by rw [runSteps_add 1 ht, runSteps_one, hu], fun k hk => ?_, fun b' k hk h => ?_, ?_⟩
    · rcases Nat.lt_succ_iff_lt_or_eq.1 hk with hk | rfl
      · rw [hrest b k (by omega) (.inr (by omega)), hown k hk]
      · exact hat
    · rw [hrest b' k hk (h.imp_right (by omega)), hother b' k hk (h.imp_right (by omega))]
    · have hlast : BitVec.ofNat 10 n = 511#10 ↔ n = 511 := by rw [← BitVec.toNat_inj, hin]; simp
      rw [hue, exchanged_eq_heard, hd, hw, he]
      simp [heard, dataEventsOf, List.range_succ, hlast, BitVec.ofNat_add, Nat.add_assoc]

/-- Settles O42: the whole stream is its 512 exchanges. -/
theorem dataStreamFillsBuffer : Obligations.DataStreamFillsBuffer := by
  intro s o b hc hb hi
  obtain ⟨t, ht, hown, hother, he⟩ := runSteps_data hc hb hi (Nat.le_refl 512)
  exact ⟨t, ht, hown, fun b' k hb' hk => hother b' k hk (.inl hb'), he⟩

/-! ### Stretches of a block read -/

/-- `t` is `s` after `d` exchanges and `e` events of a block read: it is `s` but for those, control, chip-select, the
working registers and the buffers. -/
def ReadsOn (d e : Nat) (s t : State) : Prop :=
  ∃ es, es.length = e ∧
    t = { heard d es s with ctl := t.ctl, cs := t.cs, w := t.w, mem := t.mem, scratch := t.scratch }

/-- A stretch of a block read that leaves the buffers and the operands alone. -/
structure Quiet (d e : Nat) (s t : State) : Prop where
  readsOn : ReadsOn d e s t
  mem : t.mem = s.mem
  scratch : t.scratch = s.scratch
  sector : t.w.sector = s.w.sector
  buf : t.w.buf = s.w.buf

theorem ReadsOn.trans {d e d' e' : Nat} {s t u : State} (h : ReadsOn d e s t) (h' : ReadsOn d' e' t u) :
    ReadsOn (d + d') (e + e') s u := by
  obtain ⟨es, rfl, ht⟩ := h
  obtain ⟨es', rfl, hu⟩ := h'
  refine ⟨es ++ es', List.length_append, ?_⟩
  rw [← heard_heard]
  rw [ht] at hu
  exact hu

theorem ReadsOn.card {d e : Nat} {s t : State} (h : ReadsOn d e s t) : t.card = s.card.drop d := by
  obtain ⟨es, -, ht⟩ := h
  rw [ht]; rfl

theorem ReadsOn.drawn {d e : Nat} {s t : State} (h : ReadsOn d e s t) (n : Nat) : drawn t n = drawn s (d + n) := by
  obtain ⟨es, -, ht⟩ := h
  rw [ht]; exact drawn_heard d es s n

theorem ReadsOn.trace {d e : Nat} {s t : State} (h : ReadsOn d e s t) :
    ∃ es, t.trace = s.trace ++ es ∧ es.length = e := by
  obtain ⟨es, he, ht⟩ := h
  exact ⟨es, by rw [ht]; rfl, he⟩

/-- A block read leaves Mode, the ports and the results alone until its end (R203). -/
theorem ReadsOn.unchanged {d e : Nat} {s t : State} (h : ReadsOn d e s t) :
    t.mode = s.mode ∧ t.port = s.port ∧ t.completions = s.completions := by
  obtain ⟨es, -, ht⟩ := h
  rw [ht]; exact ⟨rfl, rfl, rfl⟩

theorem Quiet.trans {d e d' e' : Nat} {s t u : State} (h : Quiet d e s t) (h' : Quiet d' e' t u) :
    Quiet (d + d') (e + e') s u :=
  ⟨h.readsOn.trans h'.readsOn, h'.mem.trans h.mem, h'.scratch.trans h.scratch, h'.sector.trans h.sector,
    h'.buf.trans h.buf⟩

theorem Quiet.bufRead {d e : Nat} {s t : State} (h : Quiet d e s t) (b : Buf) (k : Nat) :
    bufRead b k t = bufRead b k s := bufRead_congr h.mem h.scratch b k

theorem Quiet.refl (s : State) : Quiet 0 0 s s :=
  ⟨⟨[], rfl, by simp [heard]⟩, rfl, rfl, rfl, rfl⟩

theorem Quiet.setCs (l : Level) (s : State) : Quiet 0 1 s (setCs l s) :=
  ⟨⟨[.cs l], rfl, rfl⟩, rfl, rfl, rfl, rfl⟩

theorem Quiet.xfer (out : Byte) (s : State) : Quiet 1 1 s (xfer out s) := by
  refine ⟨⟨[.xfer out (Machine.drawn s 0)], rfl, ?_⟩, rfl, rfl, rfl, rfl⟩
  rw [xfer_eq_exchanged, exchanged_eq_heard]

/-- One exchange of READ_R1 (R131). -/
theorem Quiet.polled (s : State) (b : Byte) : Quiet 1 3 s (polled s b) :=
  ⟨⟨pollEvents b, rfl, by rw [polled_eq]; rfl⟩, rfl, rfl, rfl, rfl⟩

/-- A command frame (R100). -/
theorem Quiet.sentFrame (s : State) (f : Frame) : Quiet 6 8 s (sentFrame s f) :=
  ⟨⟨_, rfl, rfl⟩, rfl, rfl, rfl, rfl⟩

/-- A stretch may end by writing control and working registers but the operands. -/
theorem Quiet.write {d e : Nat} {s t : State} (h : Quiet d e s t) (c : Ctl) {w : Work} (hs : w.sector = t.w.sector)
    (hb : w.buf = t.w.buf) : Quiet d e s { t with ctl := c, w := w } := by
  obtain ⟨es, he, ht⟩ := h.readsOn
  exact ⟨⟨es, he, by rw [ht]⟩, h.mem, h.scratch, hs.trans h.sector, hb.trans h.buf⟩

/-- `n` steps lead from `s` to `t` by such a stretch. -/
structure Runs (n d e : Nat) (s t : State) : Prop where
  run : runSteps n s = .next t
  quiet : Quiet d e s t

theorem Runs.of_step {d e : Nat} {s t : State} (h : step s = .next t) (hq : Quiet d e s t) : Runs 1 d e s t :=
  ⟨by rw [runSteps_one, h], hq⟩

theorem Runs.trans {n d e n' d' e' : Nat} {s t u : State} (h : Runs n d e s t) (h' : Runs n' d' e' t u) :
    Runs (n + n') (d + d') (e + e') s u :=
  ⟨by rw [runSteps_add n' h.run, h'.run], h.quiet.trans h'.quiet⟩

/-! ### The positions of a block read -/

/-- From the wire argument in SDHC the command frame is sent, and READ_R1's first poll is next (R138, R193, R195). -/
theorem runs_command {s : State} {o : Owner} {x : U32} (hc : s.ctl = .block o .arg) (hm : s.mode = .sdhc)
    (hx : s.w.sector = some x) :
    ∃ t, Runs 2 6 8 s t ∧ t.ctl = .r1 (.block o) .pollCsLow ∧ t.w.poll = some 1 := by
  have h1 := step_arg_ok hc hx (by rw [hm]; rfl)
  have h2 : step (callFrame (.block o) Params.readIndex x s) = _ := step_frame rfl rfl rfl
  have q1 := (Quiet.refl s).write (.frame (.block o) .csLow) (w := { s.w with idx := some 17, arg := some x }) rfl rfl
  exact ⟨_, (Runs.of_step h1 q1).trans (.of_step h2 ((Quiet.sentFrame _ _).write _ rfl rfl)), rfl, rfl⟩

/-- The data phase's bracket opens, and the first token poll is next (R197). -/
theorem runs_dataCsLow {s : State} {o : Owner} (hc : s.ctl = .block o .dataCsLow) :
    ∃ t, Runs 1 0 1 s t ∧ t.ctl = .block o .tokenPoll ∧ t.w.poll = some 1 := by
  have h : step s = _ := step_block hc
  exact ⟨_, .of_step h ((Quiet.setCs .low s).write _ rfl rfl), rfl, rfl⟩

/-- A token poll answered by 0xFE leads to the data stream (R198). -/
theorem runs_tokenFound {s : State} {o : Owner} (hc : s.ctl = .block o .tokenPoll) (hd : drawn s 0 = 0xFE) :
    ∃ t, Runs 1 1 1 s t ∧ t.ctl = .block o .data ∧ t.w.i = some 0 := by
  have h : step s = .next (tokenFound o (xfer 0xFF s)) := by
    rw [step_block hc]; exact if_pos ((nextByte_eq_drawn s).trans hd)
  exact ⟨_, .of_step h ((Quiet.xfer _ s).write _ rfl rfl), rfl, rfl⟩

/-- A token poll answered by another byte is a missed one (R198, R199). -/
theorem step_tokenPoll_missed {s : State} {o : Owner} (hc : s.ctl = .block o .tokenPoll) (hd : drawn s 0 ≠ 0xFE) :
    step s = tokenMissed o (xfer 0xFF s) := by
  rw [step_block hc]; exact if_neg ((nextByte_eq_drawn s) ▸ hd)

/-- A token poll below the budget answered by another byte leads to the next one (R198). -/
theorem runs_tokenMissed {s : State} {o : Owner} {p : Poll} (hc : s.ctl = .block o .tokenPoll) (hp : s.w.poll = some p)
    (hlt : p.toNat < 10000) (hd : drawn s 0 ≠ 0xFE) :
    ∃ t, Runs 1 1 1 s t ∧ t.ctl = .block o .tokenPoll ∧ t.w.poll = some (p + 1) := by
  have h : step s = .next { xfer 0xFF s with w := { s.w with poll := some (p + 1) }, ctl := .block o .tokenPoll } := by
    rw [step_tokenPoll_missed hc hd, tokenMissed, xfer_w, hp, needReg_some]; exact if_pos hlt
  exact ⟨_, .of_step h ((Quiet.xfer _ s).write _ rfl rfl), rfl, rfl⟩

/-- The last token poll answered by another byte leaves the data phase (R199). -/
theorem runs_noToken {s : State} {o : Owner} {p : Poll} (hc : s.ctl = .block o .tokenPoll) (hp : s.w.poll = some p)
    (hge : 10000 ≤ p.toNat) (hd : drawn s 0 ≠ 0xFE) :
    ∃ t, Runs 1 1 1 s t ∧ t.ctl = .block o (.dataCsHigh false) := by
  have h : step s = .next { xfer 0xFF s with ctl := .block o (.dataCsHigh false) } := by
    rw [step_tokenPoll_missed hc hd, tokenMissed, xfer_w, hp, needReg_some]; exact if_neg (Nat.not_lt.2 hge)
  exact ⟨_, .of_step h ((Quiet.xfer _ s).write _ rfl rfl), rfl⟩

/-- A checksum exchange that is not the last leads to the next one (R201). -/
theorem runs_crc {s : State} {o : Owner} {i : StreamIndex} (hc : s.ctl = .block o .crc) (hi : s.w.i = some i)
    (hlt : i.toNat < 513) : ∃ t, Runs 1 1 1 s t ∧ t.ctl = .block o .crc ∧ t.w.i = some (i + 1) := by
  have h : step s = .next { xfer 0xFF s with w := { s.w with i := some (i + 1) }, ctl := .block o .crc } := by
    rw [step_block hc, advanceBlock, advanceCrc, hi, needReg_some]; exact if_pos (Nat.succ_lt_succ hlt)
  exact ⟨_, .of_step h ((Quiet.xfer _ s).write _ rfl rfl), rfl, rfl⟩

/-- The last checksum exchange leads to the end of the data phase (R201, R202). -/
theorem runs_lastCrc {s : State} {o : Owner} {i : StreamIndex} (hc : s.ctl = .block o .crc) (hi : s.w.i = some i)
    (hge : 513 ≤ i.toNat) : ∃ t, Runs 1 1 1 s t ∧ t.ctl = .block o (.dataCsHigh true) := by
  have h : step s = .next { xfer 0xFF s with ctl := .block o (.dataCsHigh true) } := by
    rw [step_block hc, advanceBlock, advanceCrc, hi, needReg_some]
    exact if_neg (Nat.not_lt.2 (Nat.succ_le_succ hge))
  exact ⟨_, .of_step h ((Quiet.xfer _ s).write _ rfl rfl), rfl⟩

/-- From the start of the data stream a host's read runs to Ok, the 512 bytes received in its buffer (R200 to R202). -/
theorem runSteps_dataToOk {s : State} {b : Buf} (hc : s.ctl = .block .host .data) (hb : s.w.buf = some b)
    (hi : s.w.i = some 0) :
    ∃ u, runSteps 515 s = .next (finish .ok u) ∧ ReadsOn 514 515 s u ∧ u.cs = .high ∧
      (∀ k, k < 512 → bufRead b k u = some (drawn s k)) ∧
      (∀ b' k, b' ≠ b → k < 512 → bufRead b' k u = bufRead b' k s) := by
  obtain ⟨t, ht, hown, hother, he⟩ := runSteps_data hc hb hi (Nat.le_refl 512)
  have hr : ReadsOn 512 512 s t := ⟨dataEventsOf s 512, by simp [dataEventsOf], by rw [he]⟩
  obtain ⟨t1, r1, hc1, hi1⟩ := runs_crc (s := t) (o := .host) (i := 512) (by rw [he]; rfl) (by rw [he]; rfl) (by decide)
  obtain ⟨t2, r2, hc2⟩ := runs_lastCrc hc1 hi1 (by decide)
  have hend : step t2 = .next (finish .ok (Machine.setCs .high t2)) := step_block hc2
  have hq := (r1.quiet.trans r2.quiet).trans (.setCs .high t2)
  refine ⟨Machine.setCs .high t2, ?_, hr.trans hq.readsOn, rfl, fun k hk => ?_, fun b' k hb' hk => ?_⟩
  · rw [runSteps_add 3 ht, runSteps_add 1 (r1.trans r2).run, runSteps_one, hend]
  · rw [hq.bufRead, hown k hk]
  · rw [hq.bufRead, hother b' k hk (.inl hb')]

/-! ### How a host's read ends -/

/-- What the end `t` of a host's read leaves of the buffers, against a state `s` of the read past the zero-fill (R65). -/
inductive ReadEnd (b : Buf) (s t : State) : HostResult → Prop
  | failed (e : ReadError) (he : e ≠ .cardRejected 0x00) (hr : ∀ b' k, bufRead b' k t = bufRead b' k s) :
      ReadEnd b s t (.readErr e)
  | ok (m : Nat) (hm : drawn s m = 0xFE) (hown : ∀ k, k < 512 → bufRead b k t = some (drawn s (m + 1 + k)))
      (hother : ∀ b' k, b' ≠ b → k < 512 → bufRead b' k t = bufRead b' k s) : ReadEnd b s t .ok

/-- A host's read with the buffer `b` ends within `N` steps and `E` events from `s` on, with one result. -/
def EndsWithin (N E : Nat) (b : Buf) (s : State) : Prop :=
  ∃ n d e r u, n ≤ N ∧ e ≤ E ∧ runSteps n s = .next (finish r u) ∧ ReadsOn d e s u ∧ u.cs = .high ∧ ReadEnd b s u r

theorem ReadEnd.after {d e : Nat} {b : Buf} {s t u : State} {r : HostResult} (hq : Quiet d e s t)
    (h : ReadEnd b t u r) : ReadEnd b s u r := by
  cases h with
  | failed e he hr => exact .failed e he fun b' k => (hr b' k).trans (hq.bufRead b' k)
  | ok m hm hown hother =>
    refine .ok (d + m) ((hq.readsOn.drawn m).symm.trans hm) (fun k hk => ?_) fun b' k hb hk => ?_
    · rw [hown k hk, hq.readsOn.drawn, Nat.add_assoc, Nat.add_assoc, Nat.add_assoc]
    · rw [hother b' k hb hk, hq.bufRead]

/-- A read ends in time when it does from where a stretch leads. -/
theorem EndsWithin.after {n d e N E N' E' : Nat} {b : Buf} {s t : State} (hr : Runs n d e s t)
    (h : EndsWithin N E b t) (hN : n + N ≤ N') (hE : e + E ≤ E') : EndsWithin N' E' b s := by
  obtain ⟨n', d', e', r, u, hn, he, hrun, hu, hcs, hend⟩ := h
  exact ⟨n + n', d + d', e + e', r, u, by omega, by omega, by rw [runSteps_add n' hr.run, hrun],
    hr.quiet.readsOn.trans hu, hcs, hend.after hr.quiet⟩

theorem EndsWithin.mono {N E N' E' : Nat} {b : Buf} {s : State} (h : EndsWithin N E b s) (hN : N ≤ N') (hE : E ≤ E') :
    EndsWithin N' E' b s := by
  obtain ⟨n, d, e, r, u, hn, he, h⟩ := h
  exact ⟨n, d, e, r, u, hn.trans hN, he.trans hE, h⟩

/-- A step that delivers an error ends a read. -/
theorem EndsWithin.failed {d e N E : Nat} {b : Buf} {s u : State} {err : ReadError}
    (h : step s = .next (finish (.readErr err) u)) (hq : Quiet d e s u) (hcs : u.cs = .high)
    (he : err ≠ .cardRejected 0x00) (hN : 1 ≤ N) (hE : e ≤ E) : EndsWithin N E b s :=
  ⟨1, d, e, _, u, hN, hE, by rw [runSteps_one, h], hq.readsOn, hcs, .failed err he hq.bufRead⟩

/-- The token, and 512 bytes after it (R198 to R202). -/
theorem endsWithin_tokenFound {s : State} {b : Buf} (hc : s.ctl = .block .host .tokenPoll) (hb : s.w.buf = some b)
    (hd : drawn s 0 = 0xFE) : EndsWithin 516 516 b s := by
  obtain ⟨t, ht, hct, hi⟩ := runs_tokenFound hc hd
  obtain ⟨u, hu, hr, hcs, hown, hother⟩ := runSteps_dataToOk hct (ht.quiet.buf.trans hb) hi
  refine ⟨516, _, _, .ok, u, Nat.le_refl _, Nat.le_refl 516, by rw [runSteps_add 515 ht.run, hu],
    ht.quiet.readsOn.trans hr, hcs, .ok 0 hd (fun k hk => ?_) fun b' k hb' hk => ?_⟩
  · rw [hown k hk, ht.quiet.readsOn.drawn, Nat.zero_add]
  · rw [hother b' k hb' hk, ht.quiet.bufRead]

/-- The end of a data phase with no token (R199). -/
theorem endsWithin_noToken {s : State} (b : Buf) (hc : s.ctl = .block .host (.dataCsHigh false)) :
    EndsWithin 1 1 b s :=
  .failed (step_block hc) (.setCs .high s) rfl nofun (Nat.le_refl 1) (Nat.le_refl 1)

/-- From a token poll with `j` more after it the token comes, or the polls run out. -/
theorem endsWithin_tokenPoll {j : Nat} {s : State} {b : Buf} {p : Poll} (hc : s.ctl = .block .host .tokenPoll)
    (hb : s.w.buf = some b) (hp : s.w.poll = some p) (hj : p.toNat + j = 10000) :
    EndsWithin (j + 516) (j + 516) b s := by
  induction j generalizing s p with
  | zero =>
    by_cases hd : drawn s 0 = 0xFE
    · exact endsWithin_tokenFound hc hb hd
    · obtain ⟨t, ht, hct⟩ := runs_noToken hc hp (by omega) hd
      exact .after ht (endsWithin_noToken b hct) (by omega) (by omega)
  | succ j ih =>
    by_cases hd : drawn s 0 = 0xFE
    · exact (endsWithin_tokenFound hc hb hd).mono (by omega) (by omega)
    · obtain ⟨t, ht, hct, hpt⟩ := runs_tokenMissed hc hp (by omega) hd
      have hsucc := poll_succ (k := p) (by omega)
      exact .after ht (ih hct (ht.quiet.buf.trans hb) hpt (by omega)) (by omega) (by omega)

/-- The data phase of a host's read. -/
theorem endsWithin_dataCsLow {s : State} {b : Buf} (hc : s.ctl = .block .host .dataCsLow) (hb : s.w.buf = some b) :
    EndsWithin 10516 10516 b s := by
  obtain ⟨t, ht, hct, hpt⟩ := runs_dataCsLow hc
  exact .after ht (endsWithin_tokenPoll (j := 9999) hct (ht.quiet.buf.trans hb) hpt (by decide)) (by decide)
    (by decide)

/-- A step that READ_R1 returns in: the data phase follows a byte 0x00, CardRejected any other (R138, R196). -/
theorem endsWithin_r1Return {d e : Nat} {s u : State} {b : Buf} {r : Byte} (hb : s.w.buf = some b)
    (h : step s = r1Return (.block .host) r u) (hq : Quiet d e s u) (hcs : u.cs = .high) :
    EndsWithin 10517 (e + 10516) b s := by
  by_cases hr : r = 0x00
  · have hs : step s = .next { u with ctl := .block .host .dataCsLow } := h.trans (if_pos hr)
    exact .after (.of_step hs (hq.write _ rfl rfl)) (endsWithin_dataCsLow rfl (hq.buf.trans hb)) (by decide)
      (Nat.le_refl _)
  · have hs : step s = .next (finish (.readErr (.cardRejected r)) u) := h.trans (if_neg hr)
    exact .failed hs hq hcs (by simpa using hr) (by decide) (by omega)

/-- A step at a Response Reader poll below the budget whose byte has bit 7 set leads to the next poll (R134). -/
theorem runs_pollMissed {s : State} {c : Site} {k : Poll} (hc : s.ctl = .r1 c .pollCsLow) (hk : s.w.poll = some k)
    (hlt : k.toNat < 100) (ha : r1Arrived (drawn s 0) = false) :
    ∃ t, Runs 1 1 3 s t ∧ t.ctl = .r1 c .pollCsLow ∧ t.w.poll = some (k + 1) := by
  have hw : (polled s (drawn s 0)).w.poll = some k := hk
  have h : step s = .next { polled s (drawn s 0) with
      w := { (polled s (drawn s 0)).w with poll := some (k + 1) }, ctl := .r1 c .pollCsLow } := by
    rw [step_r1 hc, if_neg (by simp [ha]), pollMissed, hw, needReg_some]; exact if_pos hlt
  exact ⟨_, .of_step h ((Quiet.polled s _).write _ rfl rfl), rfl, rfl⟩

/-- A step at a Response Reader poll that is the last, or whose byte has bit 7 clear, is READ_R1's return, after one
exchange or two (R132, R133, R134). -/
theorem step_r1_returns {s : State} {c : Site} {k : Poll} (hc : s.ctl = .r1 c .pollCsLow) (hk : s.w.poll = some k)
    (h : 100 ≤ k.toNat ∨ r1Arrived (drawn s 0) = true) :
    ∃ d e r u, e ≤ 6 ∧ step s = r1Return c r u ∧ Quiet d e s u ∧ u.cs = .high := by
  have hq := Quiet.polled s (drawn s 0)
  by_cases ha : r1Arrived (drawn s 0) = true
  · rw [step_r1 hc, if_pos ha]
    split
    · exact ⟨_, _, _, _, Nat.le_refl 6, rfl, hq.trans (.polled _ _), rfl⟩
    · exact ⟨_, _, _, _, by decide, rfl, hq, rfl⟩
  · have hw : (polled s (drawn s 0)).w.poll = some k := hk
    have hge : ¬ k.toNat < Params.r1PollBudget := Nat.not_lt.2 (h.resolve_right ha)
    refine ⟨_, _, drawn s 0, _, by decide, ?_, hq, rfl⟩
    rw [step_r1 hc, if_neg ha, pollMissed, hw, needReg_some]; exact if_neg hge

/-- READ_R1's return after CMD17, with the at most six events of its last poll (R195, R196). -/
theorem endsWithin_r1_returns {s : State} {b : Buf} {k : Poll} (hc : s.ctl = .r1 (.block .host) .pollCsLow)
    (hb : s.w.buf = some b) (hk : s.w.poll = some k) (h : 100 ≤ k.toNat ∨ r1Arrived (drawn s 0) = true) :
    EndsWithin 10517 10522 b s := by
  obtain ⟨d, e, r, u, he, hs, hq, hcs⟩ := step_r1_returns hc hk h
  exact (endsWithin_r1Return hb hs hq hcs).mono (Nat.le_refl _) (by omega)

/-- From a Response Reader poll of CMD17 with `j` more after it (R134). -/
theorem endsWithin_r1 {j : Nat} {s : State} {b : Buf} {k : Poll} (hc : s.ctl = .r1 (.block .host) .pollCsLow)
    (hb : s.w.buf = some b) (hk : s.w.poll = some k) (hj : k.toNat + j = 100) :
    EndsWithin (j + 10517) (3 * j + 10522) b s := by
  induction j generalizing s k with
  | zero => exact (endsWithin_r1_returns hc hb hk (.inl (by omega))).mono (by omega) (by omega)
  | succ j ih =>
    by_cases ha : r1Arrived (drawn s 0) = true
    · exact (endsWithin_r1_returns hc hb hk (.inr ha)).mono (by omega) (by omega)
    · obtain ⟨t, ht, hct, hkt⟩ := runs_pollMissed hc hk (by omega) (by simpa using ha)
      have hsucc := poll_succ (k := k) (by omega)
      exact .after ht (ih hct (ht.quiet.buf.trans hb) hkt (by omega)) (by omega) (by omega)

/-- From the wire argument in SDHC a host's read ends within the events of R205. -/
theorem endsWithin_arg {s : State} {b : Buf} {x : U32} (hc : s.ctl = .block .host .arg) (hm : s.mode = .sdhc)
    (hx : s.w.sector = some x) (hb : s.w.buf = some b) : EndsWithin 10618 10827 b s := by
  obtain ⟨t, ht, hct, hk⟩ := runs_command hc hm hx
  exact .after ht (endsWithin_r1 (j := 99) hct (ht.quiet.buf.trans hb) hk (by decide)) (by decide) (by decide)

/-! ### A READ_SECTOR request (R190) -/

/-- The port's decoder reads a READ_SECTOR request back (R84). -/
theorem decode_encode_readSector (sector buf : U32) (rest : List Byte) :
    decode .host (encode (.readSector sector buf) ++ rest) = .ok (.readSector sector buf) rest := by
  simp only [decode, encode, be32, List.cons_append, List.nil_append, decodeHost, ofBe32_bytes]; rfl

/-- The engine at the Mode check of the READ_SECTOR request it took from the port. -/
def readAccepted (sector buf : U32) (rest : List Byte) (s : State) : State :=
  { s with
    port := rest, ctl := .block .host .check
    w := { Work.empty with sector := some sector, buf := some (.caller buf) } }

/-- The idle engine accepts the READ_SECTOR request at its port (R37, R190). -/
theorem step_readSector {s : State} {sector buf : U32} {rest : List Byte} (hc : s.ctl = .idle)
    (hp : s.port = encode (.readSector sector buf) ++ rest) : step s = .next (readAccepted sector buf rest s) := by
  have hd : decode .host s.port = .ok (.readSector sector buf) rest := hp ▸ decode_encode_readSector sector buf rest
  rw [stepRunsDecodedInstruction.1 s _ rest hc hd]
  exact execReadSector_idle (s := { s with port := rest }) hc sector buf

/-- Accepting the request, the Mode check and the zero-fill: three steps with no event that clear the request's buffer
and lead to the wire argument (R190 to R192). -/
theorem runSteps_readSector_zeroFill {s : State} {sector buf : U32} {rest : List Byte} (hc : s.ctl = .idle)
    (hm : s.mode ≠ .none) (hp : s.port = encode (.readSector sector buf) ++ rest) :
    ∃ z, runSteps 3 s = .next z ∧ ReadsOn 0 0 { s with port := rest } z ∧ z.ctl = .block .host .arg ∧
      z.w.sector = some sector ∧ z.w.buf = some (.caller buf) ∧
      (∀ k, k < 512 → bufRead (.caller buf) k z = some 0x00) ∧
      (∀ b k, b ≠ .caller buf → k < 512 → bufRead b k z = bufRead b k s) := by
  have h1 := step_readSector hc hp
  have h2 := (noneModeRaisesNotReady (readAccepted sector buf rest s) .host rfl).2 hm
  obtain ⟨z, h3, hz, ho, he⟩ := zeroFillClearsBuffer
    { readAccepted sector buf rest s with ctl := .block .host .zero } .host (.caller buf) rfl rfl
  refine ⟨z, by simp only [runSteps, h1, h2, h3], ⟨[], rfl, ?_⟩, by rw [he], by rw [he]; rfl, by rw [he]; rfl, hz, ho⟩
  rw [he]; simp [heard, readAccepted]

/-- Settles O59: past the zero-fill the read ends, in time, by one of the two errors with nothing written, or by the
data stream. -/
theorem readSectorEndsWithResult : Obligations.ReadSectorEndsWithResult := by
  intro s sector buf rest _ hc hm hp
  obtain ⟨z, hz, hsz, hzc, hzx, hzb, hzero, hother⟩ := runSteps_readSector_zeroFill hc (by simp [hm]) hp
  have hzm : z.mode = .sdhc := hsz.unchanged.1.trans hm
  obtain ⟨n, d, e, r, u, hn, hev, hu, hr, hcs, hend⟩ := endsWithin_arg hzc hzm hzx hzb
  obtain ⟨hum, hup, huc⟩ := (hsz.trans hr).unchanged
  obtain ⟨es, hes, hlen⟩ := (hsz.trans hr).trace
  have hdr (k : Nat) : drawn z k = drawn s k := by rw [hsz.drawn, Nat.zero_add]; rfl
  refine ⟨3 + n, finish r u, r, by omega, by rw [runSteps_add n hz, hu], rfl, hup, hcs, hum.trans hm,
    ⟨es, hes, by omega⟩, by rw [finish_completions, huc], ?_⟩
  cases hend with
  | failed err herr hb =>
    refine ⟨.inr ?_, fun _ k hk => (hb _ k).trans (hzero k hk), nofun, fun h k hh hk => ?_⟩
    · cases err with
      | timeout => exact .inl rfl
      | cardRejected tok => exact .inr ⟨tok, by simpa using herr, rfl⟩
    · exact (hb _ k).trans (hother _ k (mt Buf.caller.inj hh) hk)
  | ok m hm hown hb =>
    refine ⟨.inl rfl, fun h => absurd rfl h, fun _ => ⟨m, hdr m ▸ hm, fun k hk => ?_⟩, fun h k hh hk => ?_⟩
    · exact (hown k hk).trans (by rw [hdr])
    · exact (hb _ k (mt Buf.caller.inj hh) hk).trans (hother _ k (mt Buf.caller.inj hh) hk)

/-! ### A card that answers (R207) -/

/-- The bytes at the head of the card's list are the next ones drawn (R35). -/
theorem drawn_of_card {s : State} {l l' : List Byte} {k : Nat} (h : s.card = l ++ l') (hk : k < l.length) :
    drawn s k = l[k] := by
  have hd : s.card.drop k = l[k] :: (l.drop (k + 1) ++ l') := by
    rw [h, List.drop_append_of_le_length hk.le, List.drop_eq_getElem_cons hk, List.cons_append]
  rw [drawn, hd]

/-- A stretch takes the bytes it receives from the card's list. -/
theorem Quiet.card_rest {d e : Nat} {s t : State} {l l' : List Byte} (h : Quiet d e s t) (hc : s.card = l ++ l')
    (hl : l.length = d) : t.card = l' := by
  rw [h.readsOn.card, hc, ← hl, List.drop_left]

/-- The first poll answered by 0x00 after CMD17 leads to the data phase (R195). -/
theorem runs_r1Ready {s : State} {o : Owner} (hc : s.ctl = .r1 (.block o) .pollCsLow) (hd : drawn s 0 = 0x00) :
    ∃ t, Runs 1 1 3 s t ∧ t.ctl = .block o .dataCsLow := by
  have h : step s = .next { polled s 0x00 with ctl := .block o .dataCsLow } := by rw [step_r1 hc, hd]; rfl
  exact ⟨_, .of_step h ((Quiet.polled s _).write _ rfl rfl), rfl⟩

/-- Busy bytes below the budget and then the token are as many polls, and lead to the data stream (R198). -/
theorem runs_busyThenToken {s : State} {o : Owner} {p : Poll} {busy l : List Byte} (hc : s.ctl = .block o .tokenPoll)
    (hp : s.w.poll = some p) (hcard : s.card = busy ++ 0xFE :: l) (hno : (0xFE : Byte) ∉ busy)
    (hlen : p.toNat + busy.length ≤ 10000) :
    ∃ t, Runs (busy.length + 1) (busy.length + 1) (busy.length + 1) s t ∧ t.ctl = .block o .data ∧ t.w.i = some 0 := by
  induction busy generalizing s p with
  | nil => exact runs_tokenFound hc (drawn_of_card (l := [0xFE]) hcard (by decide))
  | cons b busy ih =>
    rw [List.length_cons] at hlen
    obtain ⟨hb, hno⟩ := List.ne_and_not_mem_of_not_mem_cons hno
    have hd : drawn s 0 = b := drawn_of_card (l := [b]) hcard Nat.one_pos
    obtain ⟨t, ht, hct, hpt⟩ := runs_tokenMissed hc hp (by omega) (by rw [hd]; exact hb.symm)
    have hsucc := poll_succ (k := p) (by omega)
    obtain ⟨u, hu, hcu, hiu⟩ := ih hct hpt (ht.quiet.card_rest (l := [b]) hcard rfl) hno (by omega)
    refine ⟨u, ?_, hcu, hiu⟩
    rw [List.length_cons, Nat.add_comm]
    exact ht.trans hu

/-- From the wire argument in SDHC, a card that answers 0x00 at the first poll and then busy bytes below the budget and
the token leads to the data stream (R207). -/
theorem runs_answeredCommand {s : State} {o : Owner} {x : U32} {junk busy l : List Byte} (hc : s.ctl = .block o .arg)
    (hm : s.mode = .sdhc) (hx : s.w.sector = some x) (hcard : s.card = junk ++ 0x00 :: (busy ++ 0xFE :: l))
    (hjunk : junk.length = 6) (hbusy : busy.length < 10000) (hno : (0xFE : Byte) ∉ busy) :
    ∃ n t, Runs n (6 + 1 + 0 + (busy.length + 1)) (8 + 3 + 1 + (busy.length + 1)) s t ∧ t.ctl = .block o .data ∧
      t.w.i = some 0 ∧ t.card = l := by
  obtain ⟨t1, r1, hc1, -⟩ := runs_command hc hm hx
  have k1 := r1.quiet.card_rest hcard hjunk
  obtain ⟨t2, r2, hc2⟩ := runs_r1Ready hc1 (drawn_of_card (l := [0x00]) k1 Nat.one_pos)
  have k2 := r2.quiet.card_rest (l := [0x00]) k1 rfl
  obtain ⟨t3, r3, hc3, hp3⟩ := runs_dataCsLow hc2
  have k3 := r3.quiet.card_rest (l := []) k2 rfl
  obtain ⟨t4, r4, hc4, hi4⟩ := runs_busyThenToken hc3 hp3 k3 hno (show 1 + busy.length ≤ 10000 by omega)
  have k4 := r4.quiet.card_rest (l := busy ++ [0xFE]) (by simpa using k3) (by simp)
  exact ⟨_, t4, ((r1.trans r2).trans r3).trans r4, hc4, hi4, k4⟩

/-- Settles O60: the zero-fill, the card's answer and the data stream, one after another. -/
theorem readSectorReturnsData : Obligations.ReadSectorReturnsData := by
  intro s sector buf rest junk busy data crc more hc hm hp hcard hjunk hbusy hno hdata hcrc
  obtain ⟨z, hz, hsz, hzc, hzx, hzb, -, -⟩ := runSteps_readSector_zeroFill hc (by simp [hm]) hp
  have hzcard : z.card = junk ++ 0x00 :: (busy ++ 0xFE :: (data ++ (crc ++ more))) := by
    rw [hsz.card, List.drop_zero, hcard]; simp
  obtain ⟨n, t, ht, hct, hit, hk⟩ :=
    runs_answeredCommand hzc (hsz.unchanged.1.trans hm) hzx hzcard hjunk hbusy hno
  obtain ⟨u, hu, hr, -, hown, -⟩ := runSteps_dataToOk hct (ht.quiet.buf.trans hzb) hit
  have hsu := (hsz.trans ht.quiet.readsOn).trans hr
  obtain ⟨hum, hup, huc⟩ := hsu.unchanged
  obtain ⟨es, hes, hlen⟩ := hsu.trace
  refine ⟨_, finish .ok u, by rw [runSteps_add _ hz, runSteps_add 515 ht.run, hu], rfl, hup, hum.trans hm, ?_, ?_,
    fun k hk' => ?_, ?_⟩
  · rw [finish_card, hr.card, hk, ← List.append_assoc, List.drop_left' (by simp [hdata, hcrc])]
  · rw [finish_completions, huc]
  · have hlt : k < data.length := hdata ▸ hk'
    rw [List.getElem?_eq_getElem hlt, ← drawn_of_card hk hlt]
    exact hown k hk'
  · rw [finish_trace, hes, List.length_append, hlen]; dsimp only; omega

end Sys2Proof.Machine

/-! SUPPORT and PROOFS of the statements about the encodings: the decoder undoes the encoder, and the encoder the decoder
but for a computed checksum byte; the frames the engine emits, the checksum bytes it discards, the received bytes' classes
and the results. -/

namespace Sys2Proof.Machine

/-! ### The rows of a frame's index and argument -/

/-- The generic form is well-formed for the pairs that no row of its own has (R76, R112). -/
theorem wellFormed_cmdN_iff (x : Index) (a : U32) :
    (Instr.cmdN x a).wellFormed = true ↔
      ¬(x = Params.goIdleIndex ∧ a = Params.zeroArg) ∧ ¬(x = Params.ifCondIndex ∧ a = Params.ifCondArg) ∧
      x ≠ Params.readIndex ∧ ¬(x = Params.appIndex ∧ a = Params.zeroArg) ∧
      ¬(x = Params.acmdIndex ∧ a = Params.acmd41Arg) := by
  simp only [Instr.wellFormed, Instr.genericFrame, Bool.and_eq_true, Bool.not_eq_true', Bool.eq_false_iff, ne_eq,
    beq_iff_eq, and_assoc]

theorem frameRow_cmdN {x : Index} {a : U32} (h : (Instr.cmdN x a).wellFormed = true) : frameRow x a = .cmdN x a := by
  obtain ⟨h0, h8, h17, h55, h41⟩ := (wellFormed_cmdN_iff x a).1 h
  rw [frameRow, if_neg h17, if_neg h0, if_neg h8, if_neg h55, if_neg h41]

/-- The row of an index and argument is a well-formed frame, and encodes to the frame of those two (R76, R100). -/
theorem frameRow_spec (x : Index) (a : U32) :
    (frameRow x a).wellFormed = true ∧ (frameRow x a).stream = .frame ∧ encode (frameRow x a) = frameBytes x a := by
  unfold frameRow
  split_ifs with h17 h0 h8 h55 h41
  · subst h17; exact ⟨rfl, rfl, rfl⟩
  · obtain ⟨rfl, rfl⟩ := h0; exact ⟨rfl, rfl, rfl⟩
  · obtain ⟨rfl, rfl⟩ := h8; exact ⟨rfl, rfl, rfl⟩
  · obtain ⟨rfl, rfl⟩ := h55; exact ⟨rfl, rfl, rfl⟩
  · obtain ⟨rfl, rfl⟩ := h41; exact ⟨rfl, rfl, rfl⟩
  · exact ⟨(wellFormed_cmdN_iff x a).2 ⟨h0, h8, h17, h55, h41⟩, rfl, rfl⟩

/-! ### The classes of a received byte -/

theorem classifyR1_notArrivedByte (b : BitVec 7) : classifyR1 (notArrivedByte b) = .rxR1NotArrived b := by
  revert b; decide

/-- A token byte is its flag bits with bit 7 clear (R79). -/
theorem tokenByte_eq_setWidth (f : BitVec 7) : tokenByte f = f.setWidth 8 := by revert f; decide

theorem classifyR1_tokenByte {f : BitVec 7} (h : (Instr.rxR1Token f).wellFormed = true) :
    classifyR1 (tokenByte f) = .rxR1Token f := by revert f; decide

theorem classifyData_of_ne {b : Byte} (h : b ≠ Params.dataToken) : classifyData b = .rxDataBusy b := if_neg h

/-- The class of a Response Reader byte is a well-formed row of that stream, whose encoding is the byte (R79, R83). -/
theorem classifyR1_spec (b : Byte) :
    (classifyR1 b).wellFormed = true ∧ (classifyR1 b).stream = .r1 ∧ encode (classifyR1 b) = [b] := by
  unfold classifyR1
  split_ifs with ha hv
  · exact ⟨rfl, rfl, by rw [hv]; rfl⟩
  · have e : (b.setWidth 7).setWidth 8 = b := by rw [← tokenByte_eq_setWidth, tokenByte_of ha]
    exact ⟨by simpa [Instr.wellFormed, e] using hv, rfl, by rw [encode, tokenByte_of ha]⟩
  · exact ⟨rfl, rfl, by rw [encode, notArrivedByte_of (by simpa using ha)]⟩

/-- The class of a token poll's byte is a well-formed row of that stream, whose encoding is the byte (R81, R83). -/
theorem classifyData_spec (b : Byte) :
    (classifyData b).wellFormed = true ∧ (classifyData b).stream = .data ∧ encode (classifyData b) = [b] := by
  unfold classifyData
  split_ifs with ht
  · exact ⟨rfl, rfl, by rw [ht]; rfl⟩
  · exact ⟨by simpa [Instr.wellFormed] using ht, rfl, rfl⟩

/-! ### Decoding an encoding -/

/-- Settles O6, row by row: a frame by the row of its index and argument, a request by its big-endian words, a received
byte by its class. -/
theorem decodeOfEncode : Obligations.DecodeOfEncode := by
  intro i rest hi
  cases i with
  | cmd0 | cmd8 | cmd17 | cmd55 | acmd41 => exact decode_frameBytes _ _ rest
  | cmdN x a => exact (decode_frameBytes x a rest).trans (by rw [frameRow_cmdN hi])
  | init => rfl
  | readSector sector buf => exact decode_encode_readSector sector buf rest
  | rxR1NotArrived b => exact congrArg (Decoded.ok · rest) (classifyR1_notArrivedByte b)
  | rxR1Vendor => rfl
  | rxR1Token f => exact congrArg (Decoded.ok · rest) (classifyR1_tokenByte hi)
  | rxDataToken => rfl
  | rxDataBusy b => exact congrArg (Decoded.ok · rest) (classifyData_of_ne (bne_iff_ne.1 hi))

/-! ### Encoding what was decoded -/

/-- The big-endian bytes of the word of four bytes are those four (R14, R51). -/
theorem be32_ofBe32 (b3 b2 b1 b0 : Byte) : be32 (ofBe32 b3 b2 b1 b0) = [b3, b2, b1, b0] := by
  have h3 : (b3 ++ b2 ++ b1 ++ b0).extractLsb' 24 8 = b3 :=
    (BitVec.extractLsb'_append_eq_of_le (by decide)).trans
      ((BitVec.extractLsb'_append_eq_of_le (by decide)).trans BitVec.extractLsb'_append_eq_left)
  have h2 : (b3 ++ b2 ++ b1 ++ b0).extractLsb' 16 8 = b2 :=
    (BitVec.extractLsb'_append_eq_of_le (by decide)).trans
      ((BitVec.extractLsb'_append_eq_of_le (by decide)).trans BitVec.extractLsb'_append_eq_right)
  have h1 : (b3 ++ b2 ++ b1 ++ b0).extractLsb' 8 8 = b1 :=
    (BitVec.extractLsb'_append_eq_of_le (by decide)).trans BitVec.extractLsb'_append_eq_right
  have h0 : (b3 ++ b2 ++ b1 ++ b0).extractLsb' 0 8 = b0 := BitVec.extractLsb'_append_eq_right
  simp only [be32, ofBe32, h3, h2, h1, h0]

/-- A byte whose bits 7..6 are 01 is the start byte of its bits 5..0 (R72). -/
theorem startByte_of_startBits {b : Byte} (h : b.extractLsb' 6 2 = 1#2) : startByte (b.extractLsb' 0 6) = b := by
  revert b; decide

/-- A frame the decoder reads: the row of its index and argument, the five bytes of those two before a checksum byte that
has the stop bit, and for index 0 and 8 is the literal (R71 to R74, R103, R104). -/
theorem decodeFrame_ok {bs rest : List Byte} {i : Instr} (h : decodeFrame bs = .ok i rest) :
    ∃ x a c, i = frameRow x a ∧ bs = frameHead x a ++ c :: rest ∧ c.getLsbD 0 = true ∧
      (x = Params.goIdleIndex → c = Params.cmd0Crc) ∧ (x = Params.ifCondIndex → c = Params.cmd8Crc) := by
  unfold decodeFrame at h
  split at h
  · next b0 b1 b2 b3 b4 b5 rest' =>
    dsimp only at h
    split_ifs at h with hs hb h0 h8
    cases h
    refine ⟨_, _, b5, rfl, ?_, by simpa using hb, ?_, ?_⟩
    · rw [frameHead, be32_ofBe32, startByte_of_startBits (not_not.1 hs)]; rfl
    · exact fun hx => not_not.1 fun hc => h0 ⟨hx, hc⟩
    · exact fun hx => not_not.1 fun hc => h8 ⟨hx, hc⟩
  · cases h
  · cases h

/-- A request the decoder reads is its encoding (R84). -/
theorem decodeHost_reads {bs rest : List Byte} {i : Instr} (h : decodeHost bs = .ok i rest) :
    i.wellFormed = true ∧ i.stream = .host ∧ bs = encode i ++ rest := by
  unfold decodeHost at h
  split at h
  · cases h
  · split_ifs at h with h1 h2
    · cases h; exact ⟨rfl, rfl, by rw [h1]; rfl⟩
    · split at h <;> cases h
      exact ⟨rfl, rfl, by simp [encode, be32_ofBe32, h2]⟩

/-- A Response Reader byte the decoder reads is its class's encoding (R79). -/
theorem decodeR1_reads {bs rest : List Byte} {i : Instr} (h : decodeR1 bs = .ok i rest) :
    i.wellFormed = true ∧ i.stream = .r1 ∧ bs = encode i ++ rest := by
  cases bs with
  | nil => cases h
  | cons b bs =>
    cases h
    obtain ⟨hwf, hst, he⟩ := classifyR1_spec b
    exact ⟨hwf, hst, by rw [he]; rfl⟩

/-- A token poll's byte the decoder reads is its class's encoding (R81). -/
theorem decodeData_reads {bs rest : List Byte} {i : Instr} (h : decodeData bs = .ok i rest) :
    i.wellFormed = true ∧ i.stream = .data ∧ bs = encode i ++ rest := by
  cases bs with
  | nil => cases h
  | cons b bs =>
    cases h
    obtain ⟨hwf, hst, he⟩ := classifyData_spec b
    exact ⟨hwf, hst, by rw [he]; rfl⟩

/-- A frame's first five bytes are the start byte and the argument (R71). -/
theorem take_frameBytes (x : Index) (a : U32) : (frameBytes x a).take 5 = frameHead x a := rfl

theorem head_frameBytes (x : Index) (a : U32) : (frameBytes x a).head? = some (startByte x) := rfl

theorem startByte_injective : Function.Injective startByte := Function.LeftInverse.injective startByte_index

/-- Settles O7, by the stream read: what a decoded frame and a decoded request are, and the class of a received byte. -/
theorem decodedIsWellFormed : Obligations.DecodedIsWellFormed := by
  intro st bs rest i h
  cases st with
  | frame =>
    obtain ⟨x, a, c, rfl, rfl, hstop, h0, h8⟩ := decodeFrame_ok h
    obtain ⟨hwf, hst, he⟩ := frameRow_spec x a
    have hhead {b : Byte} (hb : (encode (frameRow x a)).head? = some b) : startByte x = b := by
      rwa [he, head_frameBytes, Option.some.injEq] at hb
    exact ⟨hwf, hst, fun hn => absurd rfl hn, fun _ => ⟨c, by rw [he, take_frameBytes], hstop,
      fun hb => h0 (startByte_injective (hhead hb)), fun hb => h8 (startByte_injective (hhead hb))⟩⟩
  | host => obtain ⟨hwf, hst, he⟩ := decodeHost_reads h; exact ⟨hwf, hst, fun _ => he, nofun⟩
  | r1 => obtain ⟨hwf, hst, he⟩ := decodeR1_reads h; exact ⟨hwf, hst, fun _ => he, nofun⟩
  | data => obtain ⟨hwf, hst, he⟩ := decodeData_reads h; exact ⟨hwf, hst, fun _ => he, nofun⟩

/-! ### The frames the engine emits -/

/-- At a FRAME call of a legal state a step runs the row of the site's index and an argument the site sends (R76). -/
theorem Inv.step_frame_row {s : State} {c : Site} (hi : Inv s) (hc : s.ctl = .frame c .csLow) :
    ∃ a, c.sends s.mode s.w a ∧ step s = exec (frameRow c.index a) s := by
  obtain ⟨⟨hx, a, ha, hs, -⟩, -⟩ := hi.regs_at hc
  exact ⟨a, hs, step_frame_exec hc hx ha⟩

/-- Settles O20: the row of the index and argument that the site sends. -/
theorem engineEmitsFiveCommands : Obligations.EngineEmitsFiveCommands := by
  intro s c hi hc
  obtain ⟨a, hs, h⟩ := hi.step_frame_row hc
  cases c with
  | goIdle | ifCond | app55 | acmd41 => cases hs; exact h
  | block o => obtain ⟨x, hx, ha⟩ := hs; exact ⟨x, a, hx, ha, h⟩

/-- Only the return of CMD55's READ_R1 calls FRAME for ACMD41 (R161, R162). -/
theorem R1Answer.site_of_acmd41 {u t : State} {c : Site} {r : Byte} (h : R1Answer u r c t)
    (ht : t.ctl = .frame .acmd41 .csLow) : c = .app55 := by
  cases h with
  | app55 => rfl
  | _ => cases ht

/-- Settles O21: of the cases of a step only an answer of READ_R1 calls FRAME for ACMD41, and its site is CMD55's. -/
theorem acmd41OnlyAfterCmd55 : Obligations.Acmd41OnlyAfterCmd55 := by
  intro s t h ht hs
  cases step_next h with
  | wait | missed => exact absurd ht hs
  | exhausted c | token c | vendor c | pollToken c | pollExhausted c | extraCsHigh c =>
    cases (‹R1Answer _ _ c t›).site_of_acmd41 ht
    exact ⟨_, ‹s.ctl = _›⟩
  | zeroed o b t _ _ hw => rw [memWrite_eq hw] at ht; cases ht
  | close o found => cases o <;> cases found <;> cases ht
  | _ => cases ht

/-! ### The checksum bytes of a data block -/

/-- A checksum exchange that is not the last: its byte is discarded (R201). -/
theorem step_crc {s : State} {o : Owner} {i : StreamIndex} (hc : s.ctl = .block o .crc) (hi : s.w.i = some i)
    (hlt : i.toNat < 513) :
    step s = .next { xfer 0xFF s with w := { s.w with i := some (i + 1) }, ctl := .block o .crc } := by
  rw [step_block hc, advanceBlock, advanceCrc, hi, needReg_some]; exact if_pos (Nat.succ_lt_succ hlt)

/-- The last checksum exchange: its byte is discarded, and the bracket closes next (R201, R202). -/
theorem step_lastCrc {s : State} {o : Owner} (hc : s.ctl = .block o .crc) (hi : s.w.i = some 513) :
    step s = .next { xfer 0xFF s with ctl := .block o (.dataCsHigh true) } := by
  rw [step_block hc, advanceBlock, advanceCrc, hi, needReg_some]; rfl

/-- The end of a data block that came: the result is Ok, for the host's read and for the trial read (R171, R202). -/
theorem step_dataCsHigh_found {s : State} {o : Owner} (hc : s.ctl = .block o (.dataCsHigh true)) :
    step s = .next (finish .ok (setCs .high s)) := by
  rw [step_block hc, advanceBlock]; cases o <;> rfl

/-- A run of steps goes on from its first step. -/
theorem runSteps_succ {s t : State} (n : Nat) (h : step s = .next t) : runSteps (n + 1) s = runSteps n t := by
  simp only [runSteps, h]

/-- Settles O43, by the three positions. -/
theorem checksumBytesThenOk : Obligations.ChecksumBytesThenOk := by
  intro s o hc hi
  have hd : s.card.tail.tail = s.card.drop 2 := by rw [← List.drop_one, List.drop_tail]
  refine (runSteps_succ 2 (step_crc hc hi (by decide))).trans ?_
  refine (runSteps_succ 1 (step_lastCrc rfl rfl)).trans ?_
  refine (runSteps_succ 0 (step_dataCsHigh_found rfl)).trans ?_
  simp [runSteps, xfer_eq_exchanged, exchanged, setCs, emit, finish, drawn, hd]

/-! ### Words of the table, classes and codes -/

/-- Settles O5: each word is closed, and the decoder reads it without the checksum collaborator (log entry 5). -/
theorem tableWordsDecode : Obligations.TableWordsDecode :=
  ⟨rfl, rfl, rfl, rfl, rfl, rfl, rfl, rfl, rfl, rfl, rfl, rfl, rfl⟩

/-- Settles O8: the two decoders answer the class, which looks at bit 7 first and at the vendor byte before the token. -/
theorem everyReceivedByteHasAClass : Obligations.EveryReceivedByteHasAClass := by
  intro b rest
  constructor
  · rw [show decode .r1 (b :: rest) = .ok (classifyR1 b) rest from rfl, classifyR1, r1Arrived,
      BitVec.setWidth_eq_extractLsb' (by decide)]
    cases b.getLsbD 7
    · exact apply_ite (Decoded.ok · rest) (b = Params.vendorByte) _ _
    · rfl
  · exact apply_ite (Decoded.ok · rest) (b = Params.dataToken) _ _

/-- Only CardRejected carries a payload, its token (R85). -/
theorem payload_eq_some_iff (r : HostResult) (t : Byte) : r.payload = some t ↔ r = .readErr (.cardRejected t) := by
  cases r with
  | readErr e => cases e <;> simp [HostResult.payload]
  | _ => simp [HostResult.payload]

/-- Settles O11. -/
theorem resultCodes : Obligations.ResultCodes :=
  ⟨rfl, rfl, rfl, rfl, rfl, fun _ => rfl, rfl, payload_eq_some_iff⟩

/-! ### Received bytes outside a poll -/

theorem atR1Poll_refused {s : State} (hf : s.ctl ≠ .fault) (h : ∀ c, s.ctl ≠ .r1 c .pollCsLow) (k : Site → Out) :
    atR1Poll s k = .refused .noPoll := by
  unfold atR1Poll; split
  · next c hc => exact absurd hc (h c)
  · contradiction
  · rfl

theorem atTokenPoll_refused {s : State} (hf : s.ctl ≠ .fault) (h : ∀ o, s.ctl ≠ .block o .tokenPoll) (k : Owner → Out) :
    atTokenPoll s k = .refused .noPoll := by
  unfold atTokenPoll; split
  · next o ho => exact absurd ho (h o)
  · contradiction
  · rfl

/-- Settles O30: the classes of a stream all ask for a poll of its kind first. -/
theorem receivedByteOutsidePollIsRefused : Obligations.ReceivedByteOutsidePollIsRefused := by
  intro s i hf
  refine ⟨fun h hi => ?_, fun h hi => ?_⟩
  · cases i with
    | rxR1NotArrived | rxR1Vendor | rxR1Token => exact atR1Poll_refused hf h _
    | _ => cases hi
  · cases i with
    | rxDataToken | rxDataBusy => exact atTokenPoll_refused hf h _
    | _ => cases hi

end Sys2Proof.Machine

/-! SUPPORT and PROOFS of the statements about the framer: the six bytes of a frame, the bracket that sends them, and
what the six command instructions leave. -/

namespace Sys2Proof.Machine

/-! ### The bytes of a frame -/

/-- The checksum byte by its index (R103, R104, R105). -/
theorem checksum_spec (x : Index) (h : List Byte) :
    (x = 0 → checksum x h = 0x95) ∧ (x = 8 → checksum x h = 0x87) ∧
      (x ≠ 0 → x ≠ 8 → checksum x h = stopForm (Config.crc7 h)) := by
  refine ⟨?_, ?_, fun h0 h8 => ?_⟩
  · rintro rfl; exact checksum_goIdle h
  · rintro rfl; exact checksum_ifCond h
  · exact (if_neg h0).trans (if_neg h8)

/-- The index does not reach the bits of 0x40, so the start byte is their sum (R101). -/
theorem startByte_range (x : Index) :
    startByte x = 0x40 + x.setWidth 8 ∧ 0x40 ≤ (startByte x).toNat ∧ (startByte x).toNat ≤ 0x7F := by
  revert x; decide

/-- Settles O9: the head is the start byte and the argument, the last byte the checksum of the index. -/
theorem frameBytesFollowFormat : Obligations.FrameBytesFollowFormat := by
  intro x a
  have hbytes {c : Byte} (hc : checksum x (frameHead x a) = c) : frameBytes x a = frameHead x a ++ [c] := by
    rw [frameBytes, hc]
  obtain ⟨h0, h8, hcrc⟩ := checksum_spec x (frameHead x a)
  exact ⟨fun h => hbytes (h0 h), fun h => hbytes (h8 h), fun h h' => hbytes (hcrc h h'),
    ⟨_, rfl, checksum_stopBit x _⟩, startByte_range x⟩

/-! ### What FRAME leaves, in any state -/

/-- FRAME is its eight events and the return to its caller. -/
theorem frameProc_eq_frameReturn (x : Index) (a : U32) (s : State) :
    frameProc x a s = frameReturn (sentFrame s (Frame.build x a)) := by
  simp [frameProc, sendFrame_eq, sentFrame, setCs, emit, buildFrame, frameEvents, drawn]

/-- FRAME's return writes control and the registers `frame` and `poll`, and nothing else (R28, R138). -/
theorem frameReturn_frame (s : State) :
    frameReturn s = { s with
      ctl := (frameReturn s).ctl
      w := { s.w with frame := (frameReturn s).w.frame, poll := (frameReturn s).w.poll } } := by
  unfold frameReturn; split <;> rfl

/-- The trace after FRAME (R114). -/
theorem frameProc_trace (x : Index) (a : U32) (s : State) :
    (frameProc x a s).trace = (sentFrame s (Frame.build x a)).trace := by
  rw [frameProc_eq_frameReturn, frameReturn_frame]

/-- Settles O10: the bracket holds the bytes of the frame register, the last of them the checksum. -/
theorem everyFrameIsOneBracket : Obligations.EveryFrameIsOneBracket := fun s x a =>
  ⟨_, _, _, _, _, _, _, _, _, _, _, _, frameProc_trace x a s, Frame.build_bytes x a, checksum_spec x (frameHead x a)⟩

/-- Settles O19: each of the six is FRAME, which sends its frame and returns. -/
theorem commandsLeaveRestUnchanged : Obligations.CommandsLeaveRestUnchanged := by
  intro i s t hi h
  obtain ⟨x, a, -, hx⟩ := exec_command hi
  obtain ⟨-, hk⟩ := unlessFaulted_next ((hx s).symm.trans h)
  obtain rfl := Host.Outcome.next.inj hk
  rw [frameProc_eq_frameReturn, frameReturn_frame]
  exact ⟨rfl, rfl, rfl, rfl, rfl, rfl, fun b k => bufRead_congr rfl rfl b k⟩

/-! ### The command instructions at a FRAME call -/

/-- At a FRAME call an instruction that is the framer on a pair sends that pair's frame, and READ_R1 is next (R138). -/
theorem exec_at_frameCall {i : Instr} {x : Index} {a : U32} {s : State} {c : Site}
    (hi : exec i s = unlessFaulted s (.next (frameProc x a s))) (h : s.ctl = .frame c .csLow) :
    exec i s = .next (enterReadR1 c (sentFrame s (Frame.build x a))) := by
  rw [hi, unlessFaulted_of (by simp [h]), frameProc_at h]

/-- GO_IDLE_STATE's frame (R107). -/
theorem Frame.build_goIdle :
    Frame.build Params.goIdleIndex Params.zeroArg = ⟨0x40, 0x00, 0x00, 0x00, 0x00, 0x95⟩ := by decide

/-- SEND_IF_COND's frame (R108). -/
theorem Frame.build_ifCond :
    Frame.build Params.ifCondIndex Params.ifCondArg = ⟨0x48, 0x00, 0x00, 0x01, 0xAA, 0x87⟩ := by decide

/-- The frame of an index whose checksum byte is computed (R101, R102, R105). -/
theorem Frame.build_computed {x : Index} (h0 : x ≠ 0) (h8 : x ≠ 8) (a : U32) :
    Frame.build x a = ⟨startByte x, a.extractLsb' 24 8, a.extractLsb' 16 8, a.extractLsb' 8 8, a.extractLsb' 0 8,
      stopForm (Config.crc7 (frameHead x a))⟩ := by
  obtain ⟨-, -, hcrc⟩ := checksum_spec x (frameHead x a)
  rw [Frame.build, hcrc h0 h8]

/-- At a FRAME call an instruction of such an index sends the start byte, the argument and the computed checksum. -/
theorem exec_at_computedFrame {i : Instr} {x : Index} {a : U32} {s : State} {c : Site}
    (hi : exec i s = unlessFaulted s (.next (frameProc x a s))) (h0 : x ≠ 0) (h8 : x ≠ 8)
    (h : s.ctl = .frame c .csLow) :
    exec i s = .next (enterReadR1 c (sentFrame s ⟨startByte x, a.extractLsb' 24 8, a.extractLsb' 16 8,
      a.extractLsb' 8 8, a.extractLsb' 0 8, stopForm (Config.crc7 (frameHead x a))⟩)) := by
  rw [exec_at_frameCall hi h, Frame.build_computed h0 h8]

/-- Settles O12. -/
theorem cmd0SendsFrame : Obligations.Cmd0SendsFrame := fun s c h => by
  rw [← Frame.build_goIdle]; exact exec_at_frameCall rfl h

/-- Settles O13. -/
theorem cmd8SendsFrame : Obligations.Cmd8SendsFrame := fun s c h => by
  rw [← Frame.build_ifCond]; exact exec_at_frameCall rfl h

/-- Settles O14: the checksum of index 17 is computed. -/
theorem cmd17SendsFrame : Obligations.Cmd17SendsFrame := fun _ _ warg h =>
  exec_at_computedFrame (x := Params.readIndex) (a := warg) rfl (by decide) (by decide) h

/-- Settles O15: the checksum of index 55 is computed. -/
theorem cmd55SendsFrame : Obligations.Cmd55SendsFrame := fun _ _ h =>
  exec_at_computedFrame (x := Params.appIndex) (a := Params.zeroArg) rfl (by decide) (by decide) h

/-- Settles O16: the checksum of index 41 is computed. -/
theorem acmd41SendsFrame : Obligations.Acmd41SendsFrame := fun _ _ h =>
  exec_at_computedFrame (x := Params.acmdIndex) (a := Params.acmd41Arg) rfl (by decide) (by decide) h

/-- Settles O17: the generic form is the framer on its two operands. -/
theorem cmdNSendsFrame : Obligations.CmdNSendsFrame := by
  intro s c n a h
  obtain ⟨h0, h8, hcrc⟩ := checksum_spec n (frameHead n a)
  exact ⟨checksum n (frameHead n a), h0, h8, hcrc, exec_at_frameCall rfl h⟩

end Sys2Proof.Machine

/-! SUPPORT and PROOFS of the statements about the Response Reader: what its three classes answer, a run of missed
polls, and the bound on the events of a running request. -/

namespace Sys2Proof.Machine

/-! ### The Response Reader classes at a poll (R130 to R134) -/

/-- A poll that the vendor byte answers has one exchange more, whose byte is returned (R133). -/
theorem exec_vendor {s : State} {c : Site} (h : s.ctl = .r1 c .pollCsLow) :
    exec .rxR1Vendor s = r1Return c (drawn s 1) (polled (polled s 0x1F) (drawn s 1)) := by
  have hd : nextByte (polled s 0x1F) = drawn s 1 := (nextByte_eq_drawn _).trans (drawn_polled s _ 0)
  simp only [exec, execRxR1Vendor, atR1Poll_of h, r1Exchange_eq_polled, Params.vendorByte, hd]

theorem exec_token {s : State} {c : Site} (h : s.ctl = .r1 c .pollCsLow) (f : BitVec 7) :
    exec (.rxR1Token f) s = r1Return c (tokenByte f) (polled s (tokenByte f)) := by
  simp only [exec, execRxR1Token, atR1Poll_of h, r1Exchange_eq_polled]

theorem exec_notArrived {s : State} {c : Site} (h : s.ctl = .r1 c .pollCsLow) (b : BitVec 7) :
    exec (.rxR1NotArrived b) s = pollMissed c (notArrivedByte b) (polled s (notArrivedByte b)) := by
  simp only [exec, execRxR1NotArrived, atR1Poll_of h, r1Exchange_eq_polled]

/-- Below the budget a missed poll is followed by the next (R134). -/
theorem pollMissed_below {s : State} {c : Site} {k : Poll} (h : s.ctl = .r1 c .pollCsLow) (hk : s.w.poll = some k)
    (hlt : k.toNat < 100) (b : Byte) :
    pollMissed c b (polled s b) =
      .next { polled s b with w := { s.w with tok := some b, poll := some (k + 1) } } := by
  have hw : (polled s b).w.poll = some k := hk
  rw [pollMissed, hw, needReg_some, ← h]; exact if_pos hlt

/-- At the budget a missed poll's byte is returned (R134). -/
theorem pollMissed_last {s : State} {k : Poll} (hk : s.w.poll = some k) (hge : 100 ≤ k.toNat) (c : Site) (b : Byte) :
    pollMissed c b (polled s b) = r1Return c b (polled s b) := by
  have hw : (polled s b).w.poll = some k := hk
  rw [pollMissed, hw, needReg_some]; exact if_neg (Nat.not_lt.2 hge)

/-- Settles O25: the class is a missed poll below the budget. -/
theorem notArrivedPollsAgain : Obligations.NotArrivedPollsAgain := fun _ _ b _ h hk hlt =>
  (exec_notArrived h b).trans (pollMissed_below h hk hlt _)

/-- Settles O26, class by class. -/
theorem readR1Returns : Obligations.ReadR1Returns := fun _ c h =>
  ⟨fun f _ => exec_token h f, exec_vendor h,
    fun b hk => (exec_notArrived h b).trans (pollMissed_last hk (by decide) c _)⟩

/-! ### READ_R1's return where its caller's registers hold what the loop writes -/

/-- A caller that reads the attempt counter has written it (R28). -/
theorem Site.attempt_written {c : Site} {w : Work} (h : c.regs w) (hr : (Ctl.r1 c .pollCsLow).reads .attempt = true) :
    w.attempt ≠ none := by
  cases c with
  | goIdle | ifCond | acmd41 => obtain ⟨n, hn, -⟩ := h; simp [hn]
  | app55 | block => cases hr

/-- READ_R1's return answers a next state, with no event, chip-select as it was and the token kept while the request
runs. -/
theorem r1Return_answers {c : Site} {u : State} (hg : c.regs u.w) (r : Byte) :
    ∃ t, r1Return c r u = .next t ∧ t.cs = u.cs ∧ t.trace = u.trace ∧ (t.w.tok = u.w.tok ∨ t.ctl = .idle) := by
  obtain ⟨t, ht⟩ := r1Return_total c r u
  rcases r1Return_next ht with ha | ⟨hr, hn, -⟩
  · refine ⟨t, ht, ha.trace_cs.2, ha.trace_cs.1, ?_⟩
    rcases ha.goesOn_or_ends with ⟨-, -, -, hw⟩ | ⟨hi, -⟩
    · exact .inl (by rw [hw])
    · exact .inr hi
  · exact absurd hn (Site.attempt_written hg hr)

/-- An exchange of READ_R1 writes no register its caller needs (R130). -/
theorem Site.regs_polled {c : Site} {u : State} (h : c.regs u.w) (b : Byte) : c.regs (polled u b).w :=
  Site.regs_congr rfl rfl rfl h

/-- Settles O27: each class is READ_R1's return after one exchange or two, or below the budget the next poll. -/
theorem readR1ClassesComplete : Obligations.ReadR1ClassesComplete := by
  intro s c h hg ⟨k, hk, _⟩
  refine ⟨fun f _ => ?_, ?_, fun b => ?_⟩
  · rw [exec_token h]; exact r1Return_answers (Site.regs_polled hg _) _
  · rw [exec_vendor h]; exact r1Return_answers (Site.regs_polled (Site.regs_polled hg _) _) _
  · rw [exec_notArrived h]
    rcases Nat.lt_or_ge k.toNat 100 with hlt | hge
    · exact ⟨_, pollMissed_below h hk hlt _, rfl, rfl, .inl rfl⟩
    · rw [pollMissed_last hk hge]; exact r1Return_answers (Site.regs_polled hg _) _

/-! ### Polls answered by bytes with bit 7 set (R134, R136) -/

/-- A step at a poll below the budget whose byte has bit 7 set. -/
theorem step_pollMissed {s : State} {c : Site} {k : Poll} (h : s.ctl = .r1 c .pollCsLow) (hk : s.w.poll = some k)
    (hlt : k.toNat < 100) (hb : (drawn s 0).getLsbD 7 = true) :
    step s = .next { polled s (drawn s 0) with w := { s.w with tok := some (drawn s 0), poll := some (k + 1) } } := by
  rw [step_r1 h, if_neg (by simp [r1Arrived, hb]), pollMissed_below h hk hlt]

/-- The events of the next `j` polls. -/
def missedEvents (s : State) (j : Nat) : List Event := (List.range j).flatMap fun m => pollEvents (drawn s m)

theorem length_missedEvents (s : State) (j : Nat) : (missedEvents s j).length = 3 * j := by
  simp [missedEvents, pollEvents, List.length_flatMap, Nat.mul_comm]

theorem missedEvents_succ (s : State) (j : Nat) :
    missedEvents s (j + 1) = missedEvents s j ++ pollEvents (drawn s j) := by
  simp [missedEvents, List.range_succ]

/-- The polls that missed are counted, their events recorded and their bytes drawn. -/
theorem runSteps_pollMissed {s : State} {c : Site} {j : Nat} (h : s.ctl = .r1 c .pollCsLow) (hk : s.w.poll = some 1)
    (hj : j ≤ 99) (hb : ∀ m, m < j → (drawn s m).getLsbD 7 = true) :
    ∃ t, runSteps j s = .next t ∧ t.ctl = .r1 c .pollCsLow ∧ t.w.poll = some (BitVec.ofNat 14 (j + 1)) ∧
      t.trace = s.trace ++ missedEvents s j ∧ ∀ n, drawn t n = drawn s (j + n) := by
  induction j with
  | zero => exact ⟨s, rfl, h, hk, by simp [missedEvents], by simp⟩
  | succ j ih =>
    obtain ⟨t, hrun, hc, hp, htr, hd⟩ := ih (by omega) fun m hm => hb m (by omega)
    have hd0 : drawn t 0 = drawn s j := hd 0
    have hlt : (BitVec.ofNat 14 (j + 1)).toNat < 100 := by rw [BitVec.toNat_ofNat]; omega
    have hstep := step_pollMissed hc hp hlt (by rw [hd0]; exact hb j (by omega))
    refine ⟨_, (runSteps_add 1 hrun).trans ((runSteps_one t).trans hstep), hc, ?_, ?_, fun n => ?_⟩
    · exact congrArg some (BitVec.ofNat_add (j + 1) 1).symm
    · simp [polled, htr, hd0, missedEvents_succ]
    · rw [Nat.add_right_comm, Nat.add_assoc]; exact (drawn_polled t (drawn t 0) n).trans (hd (n + 1))

/-- Settles O52: of the run's events there are three for each poll. -/
theorem unansweredPollsRun : Obligations.UnansweredPollsRun := by
  intro s c j h hk hj hb
  obtain ⟨t, hrun, hc, hp, htr, hd⟩ := runSteps_pollMissed h hk hj hb
  exact ⟨t, hrun, hc, hp, htr, hd, by rw [htr, List.length_append, length_missedEvents]⟩

/-! ### The events a running request can still produce (R174, R205, R273) -/

/-- The events recorded so far and the most that can still come. -/
def eventsTotal (s : State) : Nat := s.trace.length + eventsLeft s

theorem eventsTotal_r1 {s : State} {c : Site} {p : R1Pos} (h : s.ctl = .r1 c p) :
    eventsTotal s = s.trace.length + (r1EventsLeft p s.w.pollNo + afterSite c s.w.attemptNo) := by
  simp only [eventsTotal, eventsLeft, h]

/-- READ_R1 has 101 exchanges of three events at most before it returns to its site (R136). -/
theorem eventsTotal_enterReadR1 (c : Site) (u : State) :
    eventsTotal (enterReadR1 c u) = u.trace.length + (303 + afterSite c u.w.attemptNo) := by
  rw [eventsTotal_r1 rfl]; rfl

/-- A FRAME call has the frame's eight events and READ_R1's 303 before it returns to its site (R100, R136). -/
theorem eventsTotal_callFrame (c : Site) (x : Index) (a : U32) (u : State) :
    eventsTotal (callFrame c x a u) = u.trace.length + (311 + afterSite c u.w.attemptNo) := rfl

theorem goIdleEvents_eq : goIdleEvents = 311 + afterSite .goIdle 1 := by
  unfold goIdleEvents; simp only [afterSite]; omega

theorem readEvents_eq (o : Owner) (n : Nat) : readEvents = 311 + afterSite (.block o) n := by
  unfold readEvents; rfl

/-- The poll counter of a legal state in READ_R1 is within its budget (R134). -/
theorem Inv.pollNo_le {s : State} {c : Site} {p : R1Pos} (hi : Inv s) (hc : s.ctl = .r1 c p) : s.w.pollNo ≤ 100 := by
  obtain ⟨⟨⟨k, hk, -, h⟩, -⟩, -⟩ := hi.regs_at hc
  rw [Work.pollNo_of hk]; exact h

/-- An answer of READ_R1 from `u` keeps to the events that were left at a position `s` of READ_R1, if the events from
`s` to `u` were READ_R1's own and only `tok` was written. -/
theorem R1Answer.eventsTotal_le {s u t : State} {c : Site} {p : R1Pos} {r : Byte} (h : R1Answer u r c t) (hi : Inv s)
    (hc : s.ctl = .r1 c p) (hw : u.w = { s.w with tok := u.w.tok })
    (hl : u.trace.length ≤ s.trace.length + r1EventsLeft p s.w.pollNo) : eventsTotal t ≤ eventsTotal s := by
  obtain ⟨-, hg⟩ := hi.regs_at hc
  obtain ⟨-, hleft⟩ := h.left_le (by rw [hw]; exact Site.regs_congr rfl rfl rfl hg)
  have ea : u.w.attemptNo = s.w.attemptNo := by rw [hw]; rfl
  rw [ea] at hleft
  rw [eventsTotal_r1 hc, eventsTotal, h.trace_cs.1]
  omega

theorem blockReturn_ctl (o : Owner) (e : Option ReadError) (s : State) : (blockReturn o e s).ctl = .idle := by
  cases o <;> cases e <;> rfl

theorem blockReturn_trace (o : Owner) (e : Option ReadError) (s : State) : (blockReturn o e s).trace = s.trace := by
  cases o <;> cases e <;> rfl

/-- A step of a running request spends of the events left, in a legal state (R174, R205, R273). -/
theorem StepTo.eventsTotal_le {s t : State} (h : StepTo s t) (hi : Inv s) (hb : s.ctl ≠ .idle) :
    eventsTotal t ≤ eventsTotal s := by
  cases h with
  | wait hc | init _ hc | read _ _ _ hc => exact absurd hc hb
  | unwritten r l es d hr hh => rw [hi.holds hr] at hh; cases hh
  | pwrOff hc | waitOff hc | pwrOn hc | waitOn hc | primeCsLow hc =>
    simp [eventsTotal, eventsLeft, hc, powerEventsLeft]; omega
  | primeXfer k _ hc | primeLast k hc =>
    have hk : k.val < 10 := k.isLt
    simp [eventsTotal, eventsLeft, hc, powerEventsLeft]; omega
  | primeCsHigh hc =>
    rw [tryGoIdle, eventsTotal_callFrame]
    simp [eventsTotal, eventsLeft, hc, powerEventsLeft, goIdleEvents_eq, Work.attemptNo]; omega
  | frame c x a hc =>
    rw [eventsTotal_enterReadR1]
    simp [eventsTotal, eventsLeft, hc, frameEventsLeft, sentFrame, frameEvents, Work.attemptNo]; omega
  | frameXfer c f i _ hc | frameLast c f i hc =>
    have hk : i.val < 6 := i.isLt
    simp [eventsTotal, eventsLeft, hc, frameEventsLeft]; omega
  | frameClose c hc =>
    rw [eventsTotal_enterReadR1]
    simp [eventsTotal, eventsLeft, hc, frameEventsLeft]; omega
  | missed c k hc _ hk hlt | pollMissed c _ k hc _ _ hk hlt =>
    simp [eventsTotal, eventsLeft, hc, r1EventsLeft, polled, pollEvents, Work.pollNo, Work.attemptNo, hk]; omega
  | pollXfer c hc | extraCsLow c hc | extraXfer c hc =>
    simp [eventsTotal, eventsLeft, hc, r1EventsLeft, r1Xfer, Work.pollNo, Work.attemptNo]; omega
  | pollVendor c hc =>
    have hp := hi.pollNo_le hc
    simp [eventsTotal, eventsLeft, hc, r1EventsLeft]; omega
  | vendor c _ hc _ ha =>
    have hp := hi.pollNo_le hc
    exact ha.eventsTotal_le hi hc rfl (by simp [polled, pollEvents, r1EventsLeft]; omega)
  | exhausted c _ _ hc _ _ _ ha | token c _ hc _ _ ha | pollToken c _ _ hc _ _ _ ha
  | pollExhausted c _ _ _ hc _ _ _ _ ha | extraCsHigh c _ _ hc _ ha =>
    exact ha.eventsTotal_le hi hc rfl (by simp [polled, pollEvents, r1EventsLeft])
  | delayIfCond n hc hn | delayNegotiate n hc hn =>
    obtain ⟨k, hk, -, hlt⟩ := hi.regs_at hc
    cases hn.symm.trans hk
    -- the ten bits of `attempt` do not wrap
    have hwide : n.toNat < 1000 := Nat.lt_of_lt_of_le hlt (by decide)
    simp only [tryIfCond, tryNegotiate, eventsTotal_callFrame]
    simp [eventsTotal, eventsLeft, hc, afterSite, Work.attemptNo, hn]; omega
  | setMode hc | checked _ hc | notReady _ hc | noArg _ _ _ hc => simp [eventsTotal, eventsLeft, hc, blockEventsLeft]
  | zeroed o b _ hc _ hw => rw [memWrite_eq hw]; simp [eventsTotal, eventsLeft, hc, blockEventsLeft]
  | framed o x a hc =>
    rw [eventsTotal_callFrame, ← readEvents_eq]
    simp [eventsTotal, eventsLeft, hc, blockEventsLeft]
  | dataCsLow o hc =>
    simp [eventsTotal, eventsLeft, hc, blockEventsLeft, dataEvents, Work.pollNo]; omega
  | tokenFound o hc =>
    obtain ⟨-, p, hp, -, hle⟩ := hi.regs_at hc
    simp [eventsTotal, eventsLeft, hc, blockEventsLeft, Work.pollNo, Work.indexNo, hp]; omega
  | tokenMissed o p hc _ hp hlt =>
    simp [eventsTotal, eventsLeft, hc, blockEventsLeft, Work.pollNo, hp, Params.tokenPollBudget]; omega
  | noToken o p hc => simp [eventsTotal, eventsLeft, hc, blockEventsLeft]
  | data o i b u hc hn _ hw =>
    obtain ⟨hle, -⟩ := memWrite_next hw
    simp [eventsTotal, eventsLeft, hc, memWrite_trace hw]
    split <;> simp [blockEventsLeft, Work.indexNo, hn] <;> omega
  | crc o i hc hn hlt =>
    simp [eventsTotal, eventsLeft, hc, blockEventsLeft, Work.indexNo, hn]; omega
  | crcLast o i hc =>
    obtain ⟨-, k, hk, -, hle⟩ := hi.regs_at hc
    simp [eventsTotal, eventsLeft, hc, blockEventsLeft, Work.indexNo, hk]; omega
  | close o found hc =>
    simp [eventsTotal, eventsLeft, hc, blockEventsLeft, blockReturn_ctl, blockReturn_trace]

/-- Settles O56, by the cases of a step: each records no more events than it takes off those left. -/
theorem eventsAreBounded : Obligations.EventsAreBounded :=
  fun _ _ hi hb h => (step_next h).eventsTotal_le hi hb

end Sys2Proof.Machine

/-! SUPPORT and PROOFS of the statements about the bring-up: the answers to its commands, its delays and its power
cycle, who writes Mode, and the end of an INIT request. -/

namespace Sys2Proof.Machine

/-! ### The answers to the bring-up's commands and to CMD17 (R155 to R168, R196) -/

/-- What a bring-up loop does with the byte its command returned: on `ok` it is done, on another byte it goes on while
the attempts are below the budget and then fails with `e` (R156, R159, R163). -/
def loopAnswer (u : State) (r ok : Byte) (budget : Nat) (done : State) (again : Attempt → State)
    (e : InitError) : Out :=
  if r = ok then .next done
  else needReg u.w.attempt .attempt u fun n =>
    if n.toNat < budget then .next (again n) else .next (finish (.initErr e) u)

theorem r1Return_goIdle (u : State) (r : Byte) : r1Return .goIdle r u =
    loopAnswer u r Params.r1Idle Params.goIdleBudget (tryIfCond 1 u) (fun n => tryGoIdle (n + 1) u) .goIdleFailed := rfl

theorem r1Return_ifCond (u : State) (r : Byte) : r1Return .ifCond r u =
    loopAnswer u r Params.r1Idle Params.ifCondBudget (tryNegotiate 1 u) (fun _ => { u with ctl := .delay .ifCond })
      .unsupportedCard := rfl

theorem r1Return_acmd41 (u : State) (r : Byte) : r1Return .acmd41 r u =
    loopAnswer u r Params.r1Ready Params.negotiateBudget { u with ctl := .setMode }
      (fun _ => { u with ctl := .delay .negotiate }) .negotiationFailed := rfl

/-- The three answers of a bring-up loop, by the byte and the attempt's number. -/
theorem loopAnswer_cases {u : State} {n : Attempt} (hn : u.w.attempt = some n) (r ok : Byte) (budget : Nat)
    (done : State) (again : Attempt → State) (e : InitError) :
    (r = ok → loopAnswer u r ok budget done again e = .next done) ∧
    (r ≠ ok → n.toNat < budget → loopAnswer u r ok budget done again e = .next (again n)) ∧
    (r ≠ ok → budget ≤ n.toNat → loopAnswer u r ok budget done again e = .next (finish (.initErr e) u)) := by
  refine ⟨fun hr => if_pos hr, fun hr hlt => ?_, fun hr hge => ?_⟩
  · rw [loopAnswer, if_neg hr, hn, needReg_some, if_pos hlt]
  · rw [loopAnswer, if_neg hr, hn, needReg_some, if_neg (Nat.not_lt.2 hge)]

/-- Settles O31: GO_IDLE's loop tries again at once. -/
theorem goIdleAnswer : Obligations.GoIdleAnswer := by
  intro u r n hn
  rw [r1Return_goIdle]
  obtain ⟨hdone, hagain, hfailed⟩ := loopAnswer_cases hn r Params.r1Idle Params.goIdleBudget (tryIfCond 1 u)
    (fun n => tryGoIdle (n + 1) u) .goIdleFailed
  exact ⟨hdone, hagain, fun hr hlast => hfailed hr (by rw [hlast]; decide)⟩

/-- Settles O32: CHECK_INTERFACE's loop waits before it tries again. -/
theorem checkInterfaceAnswer : Obligations.CheckInterfaceAnswer := by
  intro u r n hn
  rw [r1Return_ifCond]
  obtain ⟨hdone, hagain, hfailed⟩ := loopAnswer_cases hn r Params.r1Idle Params.ifCondBudget (tryNegotiate 1 u)
    (fun _ => { u with ctl := .delay .ifCond }) .unsupportedCard
  exact ⟨hdone, hagain, fun hr hlast => hfailed hr (by rw [hlast]; decide)⟩

/-- Settles O33: NEGOTIATE_CAPACITY's loop goes by ACMD41's answer, and CMD55's is not looked at. -/
theorem negotiateCapacityAnswer : Obligations.NegotiateCapacityAnswer := by
  refine ⟨fun _ _ => rfl, fun u r n hn => ?_⟩
  rw [r1Return_acmd41]
  obtain ⟨hdone, hagain, hfailed⟩ := loopAnswer_cases hn r Params.r1Ready Params.negotiateBudget
    { u with ctl := .setMode } (fun _ => { u with ctl := .delay .negotiate }) .negotiationFailed
  exact ⟨hdone, hagain, fun hr hlast => hfailed hr (by rw [hlast]; decide)⟩

/-- Settles O34, by the branches of READ_R1's return to a block read. -/
theorem blockReadAnswer : Obligations.BlockReadAnswer := fun _ _ =>
  ⟨fun _ hr => if_pos hr, fun hr => if_neg hr, fun hr => if_neg hr⟩

/-! ### The positions without an instruction in the bring-up (R153, R160, R165, R199) -/

theorem step_power {s : State} {p : PowerPos} (h : s.ctl = .power p) : step s = advancePower p s := by
  rw [step_eq_advance (by simp [h]) (by simp [h]) (by simp [h]) (by simp [h]), advance, h]

theorem step_delay {s : State} {d : RetryWait} (h : s.ctl = .delay d) : step s = advanceDelay d s := by
  rw [step_eq_advance (by simp [h]) (by simp [h]) (by simp [h]) (by simp [h]), advance, h]

theorem step_setMode {s : State} (h : s.ctl = .setMode) : step s = advanceSetMode s := by
  rw [step_eq_advance (by simp [h]) (by simp [h]) (by simp [h]) (by simp [h]), advance, h]

/-- Settles O36: the attempt counter read, the delay's event, and the next attempt. -/
theorem retryDelayThenNextAttempt : Obligations.RetryDelayThenNextAttempt := by
  intro s n hn
  refine ⟨fun hc => ?_, fun hc => ?_⟩ <;> rw [step_delay hc, advanceDelay, hn] <;> rfl

/-- Settles O37: ProbeMode's first position is the assignment of Mode and the call of the block read. -/
theorem probeModeFixesSdhc : Obligations.ProbeModeFixesSdhc := fun _ hc => step_setMode hc

/-- Settles O44: the bracket closes, and the block read returns Timeout to its owner. -/
theorem noTokenIsTimeout : Obligations.NoTokenIsTimeout := fun _ =>
  ⟨fun hc => step_block hc, fun hc => step_block hc⟩

/-! ### POWER_CYCLE (R153, R154) -/

/-- An exchange of POWER_CYCLE before the last. -/
theorem step_primeXfer {s : State} {k : Fin Params.primeBytes} (hc : s.ctl = .power (.primeXfer k))
    (hk : k.val + 1 < 10) :
    step s = .next { xfer 0xFF s with ctl := .power (.primeXfer ⟨k.val + 1, hk⟩) } := by
  rw [step_power hc]; exact dif_pos hk

theorem step_lastPrimeXfer {s : State} (hc : s.ctl = .power (.primeXfer 9)) :
    step s = .next { xfer 0xFF s with ctl := .power .primeCsHigh } := by
  rw [step_power hc]; rfl

/-- `s` at a position `c` of POWER_CYCLE, after `n` of its idle bytes. -/
def primedAt (n : Nat) (c : PowerPos) (s : State) : State := { heard n (dataEventsOf s n) s with ctl := .power c }

theorem primedAt_zero {s : State} {c : PowerPos} (hc : s.ctl = .power c) : primedAt 0 c s = s := by
  simp [primedAt, heard, dataEventsOf, ← hc]

/-- One idle byte more. -/
theorem xfer_primedAt (n : Nat) (c c' : PowerPos) (s : State) :
    { xfer 0xFF (primedAt n c s) with ctl := .power c' } = primedAt (n + 1) c' s := by
  have hd : drawn (primedAt n c s) 0 = drawn s n := drawn_heard n (dataEventsOf s n) s 0
  rw [xfer_eq_exchanged, exchanged, hd]
  simp [primedAt, heard, dataEventsOf, List.range_succ, Nat.add_assoc]

/-- The idle bytes of POWER_CYCLE before its last; the bytes received are discarded. -/
theorem runSteps_primeXfers {s : State} (hc : s.ctl = .power (.primeXfer 0)) {n : Nat} (hn : n < 10) :
    runSteps n s = .next (primedAt n (.primeXfer ⟨n, hn⟩) s) := by
  induction n with
  | zero => exact congrArg Host.Outcome.next (primedAt_zero hc).symm
  | succ n ih => rw [runSteps_add 1 (ih (Nat.lt_of_succ_lt hn)), runSteps_one, step_primeXfer rfl hn, xfer_primedAt]

/-- The ten idle bytes of POWER_CYCLE lead to the end of its bracket (R154). -/
theorem runSteps_prime {s : State} (hc : s.ctl = .power (.primeXfer 0)) :
    runSteps 10 s = .next (primedAt 10 .primeCsHigh s) := by
  rw [runSteps_add 1 (runSteps_primeXfers hc (n := 9) (by decide)), runSteps_one, step_lastPrimeXfer rfl, xfer_primedAt]

/-- `s` after the power edges and their delays, its bracket open for the idle bytes (R153). -/
def poweredUp (s : State) : State :=
  { setCs .low (delayUs Config.tPwrOnUs (setPower true (delayUs Config.tPwrOffUs (setPower false s)))) with
    ctl := .power (.primeXfer 0) }

theorem runSteps_poweredUp {s : State} (hc : s.ctl = .power .pwrOff) : runSteps 5 s = .next (poweredUp s) :=
  (runSteps_succ 4 (step_power (p := .pwrOff) hc)).trans <|
  (runSteps_succ 3 (step_power (p := .waitOff) rfl)).trans <|
  (runSteps_succ 2 (step_power (p := .pwrOn) rfl)).trans <|
  (runSteps_succ 1 (step_power (p := .waitOn) rfl)).trans <|
  runSteps_succ 0 (step_power (p := .primeCsLow) rfl)

/-- Settles O35: five steps to the open bracket, the ten idle bytes, and the bracket's end. -/
theorem powerCycleRuns : Obligations.PowerCycleRuns := by
  intro s hc
  rw [runSteps_add 11 (runSteps_poweredUp hc), runSteps_add 1 (runSteps_prime rfl), runSteps_one,
    step_power (p := .primeCsHigh) rfl]
  simp only [advancePower, tryGoIdle, callFrame, setAttempt, primedAt, heard, poweredUp, setCs, setPower, delayUs, emit,
    List.append_assoc, List.cons_append, List.nil_append]
  rfl

/-! ### Each step brings the end of a running request nearer (R230, R273) -/

/-- The silent steps after a command exchange at a site: SET_MODE and the three before a block read's frame, but none
once that frame is called (R27). -/
def Site.silentAfter : Site → Nat
  | .block _ => 0
  | _ => 4

@[simp] theorem silentLeft_frame (c : Site) (p : FramePos) : silentLeft (.frame c p) = c.silentAfter := by
  cases c <;> rfl

@[simp] theorem silentLeft_r1 (c : Site) (p : R1Pos) : silentLeft (.r1 c p) = c.silentAfter := by
  cases c <;> rfl

/-- An answer of READ_R1 leaves no more silent steps than its site had. -/
theorem R1Answer.silentLeft_le {u t : State} {c : Site} {r : Byte} (h : R1Answer u r c t) :
    silentLeft t.ctl ≤ c.silentAfter := by
  cases h <;> exact Nat.le_of_ble_eq_true rfl

/-- A step of a running request records an event or is one of its silent steps. -/
theorem StepTo.silentLeft_lt {s t : State} (h : StepTo s t) (hi : Inv s) (hb : s.ctl ≠ .idle) :
    silentLeft t.ctl + s.trace.length < silentLeft s.ctl + t.trace.length := by
  cases h with
  | wait hc | init _ hc | read _ _ _ hc => exact absurd hc hb
  | unwritten r l es d hr hh => rw [hi.holds hr] at hh; cases hh
  | exhausted c _ _ hc _ _ _ ha | token c _ hc _ _ ha | vendor c _ hc _ ha | pollToken c _ _ hc _ _ _ ha
  | pollExhausted c _ _ _ hc _ _ _ _ ha | extraCsHigh c _ _ hc _ ha =>
    have hl := ha.silentLeft_le
    rw [hc, ha.trace_cs.1, silentLeft_r1]
    simp [polled, pollEvents]; omega
  | missed c k hc => simp [polled, pollEvents]
  | frame c x a hc => simp [hc, sentFrame, frameEvents]
  | zeroed o b t hc _ hw => rw [memWrite_eq hw, hc]; simp [silentLeft]
  | data o i b u hc _ _ hw => rw [memWrite_trace hw, hc]; split <;> simp [silentLeft]
  | close o found hc => rw [blockReturn_ctl, blockReturn_trace, hc]; simp [silentLeft]
  | setMode hc | notReady _ hc | checked _ hc | noArg _ _ _ hc | framed _ _ _ hc =>
    simp [hc, silentLeft]
  | frameXfer c _ _ _ hc | frameLast c _ _ hc | frameClose c hc | pollXfer c hc | pollVendor c hc
  | pollMissed c _ _ hc | extraCsLow c hc | extraXfer c hc => simp [hc]
  | primeCsHigh hc | delayIfCond _ hc | delayNegotiate _ hc =>
    simp [hc, tryGoIdle, tryIfCond, tryNegotiate, silentLeft]
  | pwrOff hc | waitOff hc | pwrOn hc | waitOn hc | primeCsLow hc | primeXfer _ _ hc | primeLast _ hc
  | dataCsLow _ hc | tokenFound _ hc | tokenMissed _ _ hc | noToken _ _ hc | crc _ _ hc | crcLast _ _ hc =>
    simp [hc, silentLeft]

/-- Settles O57: what a step takes off the events left and off the silent steps left is more than nothing. -/
theorem requestsTerminate : Obligations.RequestsTerminate := by
  intro s t hi hb h
  have hs := (step_next h).silentLeft_lt hi hb
  have he : t.trace.length + eventsLeft t ≤ s.trace.length + eventsLeft s := eventsAreBounded s t hi hb h
  simp only [stepsLeft]
  omega

/-! ### Who writes Mode (R22, R23, R170, R203) -/

/-- A step from `s` to `t` writes Mode: it accepts INIT, begins ProbeMode, or ends a failed trial read. -/
def WritesMode (s t : State) : Prop :=
  (s.ctl = .idle ∧ t.ctl = .power .pwrOff ∧ t.mode = .none) ∨
    (s.ctl = .setMode ∧ t.mode = .sdhc) ∨
    (s.ctl.reading = some .probe ∧ t.ctl = .idle ∧ t.mode = .none ∧
      t.completions = s.completions ++ [.initErr .probeFailed])

/-- The trial read is a part of INIT (R165). -/
theorem Ctl.top_of_reading_probe {c : Ctl} (h : c.reading = some .probe) : c.top = .initBusy := by
  cases c with
  | frame c p | r1 c p =>
    cases c with
    | block o => cases h; rfl
    | _ => rfl
  | block o p => cases h; rfl
  | _ => cases h

theorem WritesMode.ne_sdsc {s t : State} (h : WritesMode s t) : t.mode ≠ .sdsc := by
  obtain ⟨-, -, h⟩ | ⟨-, h⟩ | ⟨-, -, h, -⟩ := h <;> simp [h]

theorem WritesMode.not_readBusy {s t : State} (h : WritesMode s t) : s.ctl.top ≠ .readBusy := by
  obtain ⟨h, -⟩ | ⟨h, -⟩ | ⟨h, -⟩ := h
  · simp [h, Ctl.top]
  · simp [h, Ctl.top]
  · simp [Ctl.top_of_reading_probe h]

/-- An answer of READ_R1 writes Mode where it ends the trial read alone (R168). -/
theorem R1Answer.mode_eq_or_written {s u t : State} {c : Site} {p : R1Pos} {r : Byte} (h : R1Answer u r c t)
    (hc : s.ctl = .r1 c p) (hm : u.mode = s.mode) (hu : u.completions = s.completions) :
    t.mode = s.mode ∨ WritesMode s t := by
  cases h with
  | probeRejected =>
    have hend : (finish (.initErr .probeFailed) u).completions = s.completions ++ [.initErr .probeFailed] := by
      rw [finish_completions, hu]
    exact .inr (.inr (.inr ⟨by rw [hc]; rfl, rfl, rfl, hend⟩))
  | _ => exact .inl hm

/-- A step leaves Mode as it is or is one of its three writers. -/
theorem StepTo.mode_eq_or_written {s t : State} (h : StepTo s t) : t.mode = s.mode ∨ WritesMode s t := by
  cases h with
  | init _ hc => exact .inr (.inl ⟨hc, rfl, rfl⟩)
  | setMode hc => exact .inr (.inr (.inl ⟨hc, rfl⟩))
  | exhausted c _ _ hc | token c _ hc | vendor c _ hc | pollToken c _ _ hc | pollExhausted c _ _ _ hc
  | extraCsHigh c _ _ hc =>
    have ha := ‹R1Answer _ _ _ t›
    exact ha.mode_eq_or_written hc rfl rfl
  | zeroed o b t _ _ hw | data o i b u _ _ _ hw => rw [memWrite_eq hw]; exact .inl rfl
  | close o found hc =>
    cases o <;> cases found
    case probe.false => exact .inr (.inr (.inr ⟨by rw [hc]; rfl, rfl, rfl, rfl⟩))
    all_goals exact .inl rfl
  | _ => exact .inl rfl

/-- Settles O45: of the three writers none writes SDSC, and none is a step of a READ_SECTOR request. -/
theorem modeHasThreeWriters : Obligations.ModeHasThreeWriters := by
  intro s t h
  rcases (step_next h).mode_eq_or_written with hm | hw
  · exact ⟨fun hs => hm ▸ hs, fun _ => hm, .inl hm⟩
  · exact ⟨fun _ => hw.ne_sdsc, fun hr => absurd hr hw.not_readBusy, .inr hw⟩

/-! ### The end of an INIT request (R150, R171, R173, R273) -/

/-- INIT's result and the Mode it implies: Ok with SDHC, or an InitError with NONE (R171, R173). -/
def InitResult (s t : State) : Prop :=
  (t.mode = .sdhc ∧ t.completions = s.completions ++ [.ok]) ∨
    (t.mode = .none ∧ ∃ e, t.completions = s.completions ++ [.initErr e])

/-- INIT, running in `s`, is running in `t` with no result so far, or has ended there with its result and power on. -/
def InitGoesOnOrEnds (s t : State) : Prop :=
  (t.ctl.top = .initBusy ∧ t.completions = s.completions) ∨ (t.ctl = .idle ∧ t.pwr = true ∧ InitResult s t)

theorem Ctl.top_initBusy_r1 {c : Site} {p : R1Pos} : (Ctl.r1 c p).top = .initBusy ↔ c ≠ .block .host := by
  cases c with
  | block o => cases o <;> simp [Ctl.top]
  | _ => simp [Ctl.top]

theorem Ctl.top_initBusy_frame {c : Site} {p : FramePos} : (Ctl.frame c p).top = .initBusy ↔ c ≠ .block .host := by
  cases c with
  | block o => cases o <;> simp [Ctl.top]
  | _ => simp [Ctl.top]

theorem Ctl.top_initBusy_block {o : Owner} {p : BlockPos} : (Ctl.block o p).top = .initBusy ↔ o = .probe := by
  cases o <;> simp [Ctl.top]

/-- An answer of READ_R1 in INIT leaves INIT running or ends it with an error and Mode NONE. -/
theorem R1Answer.init_outcome {s u t : State} {c : Site} {p : R1Pos} {r : Byte} (h : R1Answer u r c t) (hi : Inv s)
    (hs : s.ctl.top = .initBusy) (hc : s.ctl = .r1 c p) (hm : u.mode = s.mode) (hp : u.pwr = s.pwr)
    (hu : u.completions = s.completions) : InitGoesOnOrEnds s t := by
  have hpwr := hi.pwr
  have hmode := hi.mode
  rw [hc, pwrOk_r1, ← hp] at hpwr
  rw [hc, modeOk_r1, ← hm] at hmode
  rw [hc, Ctl.top_initBusy_r1] at hs
  simp only [InitGoesOnOrEnds, InitResult, ← hu]
  cases h with
  | goIdleFailed | ifCondFailed | acmd41Failed => exact .inr ⟨rfl, hpwr (.inl hs), .inr ⟨hmode, _, rfl⟩⟩
  | probeRejected => exact .inr ⟨rfl, hpwr (.inl hs), .inr ⟨rfl, _, rfl⟩⟩
  | hostRejected => exact absurd rfl hs
  | blockOk o =>
    cases o with
    | probe => exact .inl ⟨rfl, rfl⟩
    | host => exact absurd rfl hs
  | _ => exact .inl ⟨rfl, rfl⟩

/-- A step of INIT leaves it running with no result, or ends it with its result, the Mode the result implies and power
on. -/
theorem StepTo.init_outcome {s t : State} (h : StepTo s t) (hi : Inv s) (hs : s.ctl.top = .initBusy) :
    InitGoesOnOrEnds s t := by
  cases h with
  | wait hc | init _ hc | read _ _ _ hc => rw [hc] at hs; cases hs
  | unwritten r l es d hr hh => rw [hi.holds hr] at hh; cases hh
  | frame c _ _ hc | frameXfer c _ _ _ hc | frameLast c _ _ hc | frameClose c hc =>
    rw [hc, Ctl.top_initBusy_frame] at hs
    exact .inl ⟨by simpa [Ctl.top_initBusy_frame, Ctl.top_initBusy_r1] using hs, rfl⟩
  | missed c k hc => exact .inl ⟨hs, rfl⟩
  | pollXfer c hc | pollVendor c hc | pollMissed c _ _ hc | extraCsLow c hc | extraXfer c hc =>
    rw [hc, Ctl.top_initBusy_r1] at hs
    exact .inl ⟨Ctl.top_initBusy_r1.2 hs, rfl⟩
  | exhausted c _ _ hc | token c _ hc | vendor c _ hc | pollToken c _ _ hc | pollExhausted c _ _ _ hc
  | extraCsHigh c _ _ hc =>
    have ha := ‹R1Answer _ _ _ t›
    exact ha.init_outcome hi hs hc rfl rfl rfl
  | notReady o hc hm =>
    have hmode := hi.mode
    rw [hc, Ctl.top_initBusy_block] at hs
    rw [hc, modeOk_check, hm] at hmode
    cases hmode hs
  | noArg o x n hc _ ha =>
    have hmode := hi.mode
    rw [hc, Ctl.top_initBusy_block] at hs
    rw [hc, hs] at hmode
    rw [show s.mode = .sdhc from hmode] at ha; cases ha
  | zeroed o b _ hc _ hw | data o i b u hc _ _ hw =>
    rw [hc, Ctl.top_initBusy_block] at hs
    rw [memWrite_eq hw]; exact .inl ⟨Ctl.top_initBusy_block.2 hs, rfl⟩
  | close o found hc =>
    have hmode := hi.mode
    have hpwr := hi.pwr
    rw [hc, Ctl.top_initBusy_block] at hs
    subst hs
    rw [hc] at hmode hpwr
    have hon : s.pwr = true := (pwrOk_block _ _ _ _).1 hpwr (.inl nofun)
    cases found with
    | false => exact .inr ⟨rfl, hon, .inr ⟨rfl, _, rfl⟩⟩
    | true => exact .inr ⟨rfl, hon, .inl ⟨hmode, rfl⟩⟩
  | checked o hc | framed o _ _ hc | dataCsLow o hc | tokenFound o hc | tokenMissed o _ hc | noToken o _ hc
  | crc o _ hc | crcLast o _ hc =>
    rw [hc, Ctl.top_initBusy_block] at hs
    subst hs; exact .inl ⟨rfl, rfl⟩
  | _ => exact .inl ⟨rfl, rfl⟩

/-- A step of a busy engine takes nothing from the request port. -/
theorem StepTo.port_busy {s t : State} (h : StepTo s t) (hb : s.ctl ≠ .idle) : t.port = s.port := by
  cases h with
  | wait hc | init _ hc | read _ _ _ hc => exact absurd hc hb
  | exhausted | token | vendor | pollToken | pollExhausted | extraCsHigh =>
    have ha := ‹R1Answer _ _ _ t›
    obtain ⟨-, -, hp, -⟩ := ha.unchanged
    exact hp
  | zeroed o b t _ _ hw | data o i b u _ _ _ hw =>
    exact (congrArg State.port (memWrite_eq hw) :)
  | close o found => cases o <;> cases found <;> rfl
  | _ => rfl

/-- A write to the scratch buffer leaves the callers' buffers (R29, R50). -/
theorem memWrite_scratch_mem {off n : Nat} {v : Byte} {s t : State} (h : memWrite .scratch off n v s = .next t) :
    t.mem = s.mem := by
  simp only [memWrite] at h
  split at h <;> cases h
  rfl

/-- A step of INIT writes no caller's buffer: the trial read's is the scratch buffer (R167). -/
theorem StepTo.mem_init {s t : State} (h : StepTo s t) (hi : Inv s) (hs : s.ctl.top = .initBusy) : t.mem = s.mem := by
  cases h with
  | exhausted | token | vendor | pollToken | pollExhausted | extraCsHigh =>
    have ha := ‹R1Answer _ _ _ t›
    obtain ⟨-, -, -, hm, -⟩ := ha.unchanged
    exact hm
  | zeroed o b t hc hb hw | data o i b u hc _ hb hw =>
    obtain ⟨ho, -⟩ := hi.regs_at hc
    rw [hc, Ctl.top_initBusy_block] at hs
    subst hs
    cases hb.symm.trans ho.2
    exact (memWrite_scratch_mem hw :)
  | close o found => cases o <;> cases found <;> rfl
  | _ => rfl

/-- `t` is the end of the INIT that runs in `s`: the bus released, power on, no caller's buffer changed, no more events
than were left, and one result with the Mode it implies. -/
structure InitEnds (s t : State) : Prop where
  idle : t.ctl = .idle
  port : t.port = s.port
  cs : t.cs = .high
  pwr : t.pwr = true
  mem : t.mem = s.mem
  trace : ∃ es, t.trace = s.trace ++ es ∧ es.length ≤ eventsLeft s
  result : InitResult s t

/-- The events of a step of a running request come off those left. -/
theorem step_events {s t : State} (hi : Inv s) (hb : s.ctl ≠ .idle) (h : step s = .next t) :
    ∃ es, t.trace = s.trace ++ es ∧ es.length + eventsLeft t ≤ eventsLeft s := by
  obtain ⟨es, he, -⟩ := traceOnlyGrows s t h
  have hl := eventsAreBounded s t hi hb h
  rw [he, List.length_append] at hl
  exact ⟨es, he, by omega⟩

/-- What INIT's end is after a step that leaves it running. -/
theorem InitEnds.of_step {s t u : State} (h : InitEnds t u) (hi : Inv s) (hs : s.ctl.top = .initBusy)
    (hb : s.ctl ≠ .idle) (hst : step s = .next t) (hc : t.completions = s.completions) : InitEnds s u where
  idle := h.idle
  port := h.port.trans ((step_next hst).port_busy hb)
  cs := h.cs
  pwr := h.pwr
  mem := h.mem.trans ((step_next hst).mem_init hi hs)
  trace := by
    obtain ⟨es, he, hl⟩ := step_events hi hb hst
    obtain ⟨es', he', hl'⟩ := h.trace
    exact ⟨es ++ es', by rw [he', he, List.append_assoc], by rw [List.length_append]; omega⟩
  result := by simpa only [InitResult, hc] using h.result

/-- A running INIT ends within the steps it has left, whatever the card answers. -/
theorem runSteps_initEnds {s : State} (hi : Inv s) (hs : s.ctl.top = .initBusy) :
    ∃ n t, n ≤ stepsLeft s ∧ runSteps n s = .next t ∧ InitEnds s t := by
  have hb : s.ctl ≠ .idle := fun hc => by simp [hc, Ctl.top] at hs
  have hf : s.ctl ≠ .fault := fun hc => by simp [hc, Ctl.top] at hs
  obtain ⟨t, hst, -⟩ := legalStatesNeverStop s hi hf fun hc => absurd hc hb
  have hlt := requestsTerminate s t hi hb hst
  have hit := stepKeepsLegalStates s t hi hst
  rcases (step_next hst).init_outcome hi hs with ⟨htop, hcomp⟩ | ⟨hidle, hpwr, hres⟩
  · obtain ⟨n, u, hn, hu, hend⟩ := runSteps_initEnds hit htop
    exact ⟨n + 1, u, by omega, (runSteps_succ n hst).trans hu, hend.of_step hi hs hb hst hcomp⟩
  · have hcs : t.cs = .high := by rw [hit.cs, hidle]; rfl
    obtain ⟨es, he, hl⟩ := step_events hi hb hst
    exact ⟨1, t, by omega, (runSteps_one s).trans hst, hidle, (step_next hst).port_busy hb, hcs, hpwr,
      (step_next hst).mem_init hi hs, ⟨es, he, by omega⟩, hres⟩
termination_by stepsLeft s

/-- The bound of R273 on INIT's events after POWER_CYCLE. -/
theorem goIdleEvents_value : goIdleEvents = 696125 := by
  unfold goIdleEvents ifCondEvents negotiateEvents readEvents dataEvents
  rfl

/-- The idle engine takes an INIT request from its port (R37, R150). -/
theorem step_init {s : State} {rest : List Byte} (hc : s.ctl = .idle) (hp : s.port = 0x01 :: rest) :
    step s = .next { s with port := rest, mode := .none, w := Work.empty, ctl := .power .pwrOff } := by
  have hd : decode .host s.port = .ok .init rest := by rw [hp]; rfl
  rw [stepRunsDecodedInstruction.1 s _ rest hc hd]
  exact execInit_idle (s := { s with port := rest }) hc

/-- Settles O58: the request is taken in one step, and the INIT that runs then ends within the steps it has left. -/
theorem initEndsWithResult : Obligations.InitEndsWithResult := by
  intro s rest hi hc hp
  have hst := step_init hc hp
  obtain ⟨n, t, hn, ht, hend⟩ := runSteps_initEnds (stepKeepsLegalStates s _ hi hst) rfl
  obtain ⟨es, he, hl⟩ := hend.trace
  simp only [stepsLeft, eventsLeft, silentLeft, powerEventsLeft, goIdleEvents_value] at hn hl
  exact ⟨n + 1, t, by omega, (runSteps_succ n hst).trans ht, hend.idle, hend.port, hend.cs, hend.pwr, hend.mem,
    ⟨es, he, hl⟩, hend.result⟩

end Sys2Proof.Machine

/-! SUPPORT and PROOFS of the statements about the block reader: what its two token-poll classes answer. -/

namespace Sys2Proof.Machine

/-! ### The token-poll classes (R198, R199) -/

theorem exec_dataToken {s : State} {o : Owner} (h : s.ctl = .block o .tokenPoll) :
    exec .rxDataToken s = .next (tokenFound o (receive 0xFF 0xFE s)) :=
  atTokenPoll_of h _

theorem exec_dataBusy {s : State} {o : Owner} (h : s.ctl = .block o .tokenPoll) (b : Byte) :
    exec (.rxDataBusy b) s = tokenMissed o (receive 0xFF b s) :=
  atTokenPoll_of h _

/-- Below the budget a token poll without the token is followed by the next (R198). -/
theorem tokenMissed_below (u : State) {o : Owner} {p : Poll} (h : u.ctl = .block o .tokenPoll)
    (hp : u.w.poll = some p) (hlt : p.toNat < 10000) :
    tokenMissed o u = .next { u with w := { u.w with poll := some (p + 1) } } := by
  rw [tokenMissed, hp, needReg_some, ← h]; exact if_pos hlt

/-- At the budget the data phase ends without a token (R199). -/
theorem tokenMissed_last (u : State) (o : Owner) {p : Poll} (hp : u.w.poll = some p) (hge : 10000 ≤ p.toNat) :
    tokenMissed o u = .next { u with ctl := .block o (.dataCsHigh false) } := by
  rw [tokenMissed, hp, needReg_some]; exact if_neg (Nat.not_lt.2 hge)

/-- Where `poll` holds no value, reading it is the model fault of R28. -/
theorem tokenMissed_unwritten (u : State) (o : Owner) (hp : u.w.poll = none) :
    tokenMissed o u = .next (raiseFault (.unwrittenRegister .poll) u) := by
  rw [tokenMissed, hp, needReg_none]

/-- Settles O29: one exchange, and then the token, or a missed poll by what `poll` holds. -/
theorem tokenPollAnswer : Obligations.TokenPollAnswer := fun s o h =>
  ⟨exec_dataToken h,
    fun b _ hp _ hlt => (exec_dataBusy h b).trans (tokenMissed_below (receive 0xFF b s) h hp hlt),
    fun b hp _ => (exec_dataBusy h b).trans (tokenMissed_last (receive 0xFF b s) o hp (by decide)),
    fun b hp _ => (exec_dataBusy h b).trans (tokenMissed_unwritten (receive 0xFF b s) o hp)⟩

end Sys2Proof.Machine

/-! SUPPORT and PROOF of the statement about the idle engine: with an empty port it fetches nothing. -/

namespace Sys2Proof.Machine

/-- The idle engine fetches nothing from an empty request port (R261, D14). -/
theorem fetch_idle_empty {s : State} (hc : s.ctl = .idle) (hp : s.port = []) : fetch s = .wait := by
  have hd : decode .host s.port = .rejected .empty := by rw [hp]; rfl
  simp only [fetch, hc, hd, fetched]

/-- Settles O3: the step that fetches nothing at the port waits, and waiting keeps the state. -/
theorem idleEngineWaitsForRequest : Obligations.IdleEngineWaitsForRequest := by
  intro s hc hp
  rw [step, fetch_idle_empty hc hp]

end Sys2Proof.Machine
